-- ==== Sys2Proof/Word.lean ====
section
/-! DEFINITION. The values the block handles: bytes, and the word in which an operation is issued.

A sample index (R11, R41) is a plain `Nat` throughout: `SAMPLE_W` is open and "a model may use unbounded naturals, since
no rule does arithmetic on an index other than comparison and copy" (92_eei_decisions.md D14). DESIGN CHOICE, log entry
3. -/

namespace Sys2Proof

/-- An 8-bit value of one data line (R16, R62). -/
abbrev Byte := BitVec 8

/-- The word in which one operation is issued from outside the block: an operation number or a command byte in
bits 7..0 and the operands above it. DESIGN CHOICE, log entry 2: the spec numbers the operations and gives the
operands' codes, but lays out no word. -/
abbrev OpWord := BitVec 144

end Sys2Proof
end

