-- ==== Sys2Proof/Syntax.lean ====
section
/-! DEFINITION. The closed sets of names the spec uses, and the operations: one constructor of Instr for each row of
spec/opcode_table.json. -/

namespace Sys2Proof

/-- The four sampled channels (R40, R61). -/
inductive Channel where
  | sck | csn | mosi | miso
deriving DecidableEq, Repr

/-- The direction of a clock edge in a bit marker (R63). -/
inductive EdgeDir where
  | falling | rising
deriving DecidableEq, Repr

/-- The kind of a marker message (R67). -/
inductive MarkKind where
  | down | up | zero | one | start | stop
deriving DecidableEq, Repr

/-- The control state ST (R12). -/
inductive CtrlState where
  | idle | inTxn | byteDone | txnDone | halted
deriving DecidableEq, Repr

/-- HALT_CAUSE (R12); the operand of HALT is one of the last two (R116). -/
inductive HaltCause where
  | none | cancelled | exhausted
deriving DecidableEq, Repr

/-- The classes of a command byte (R145): the twelve opcodes and `undefined`. -/
inductive CmdOpcode where
  | rRegister | wRegister | rRxPayload | wTxPayload | flushTx | flushRx | reuseTxPl
  | activate | rRxPlWid | wTxPayloadNoack | nop | wAckPayload | undefined
deriving DecidableEq, Repr

/-- Every row of spec/opcode_table.json. The first nineteen are the block's operations (R69); the last twelve are
the command bytes that the stage after the block classifies (R145). -/
inductive Instr where
  -- cursor primitives, 40_cursor_primitives.md
  | bitstate (c : Channel)
  | nextedge (c : Channel)
  | seek (c : Channel) (p : Nat)
  | peekedge (c : Channel)
  | moreedges (c : Channel)
  -- Sampler, 41_sampler.md
  | advsck
  | sync
  | samplebit
  | samplebyte (first : Bool)
  -- Segmenter, 42_segmenter.md
  | findsel
  | opentxn (a d : Nat)
  | collect
  | pushbyte
  | closetxn
  | halt (cause : HaltCause)
  | run
  -- outputs, 43_outputs.md
  | emitmark (p : Nat) (kind : MarkKind) (channel : Channel)
  | emittxn
  | progress (p : Nat)
  -- command bytes, 44_downstream_context.md R145
  | rRegister (r : BitVec 5)
  | wRegister (r : BitVec 5)
  | rRxPayload
  | wTxPayload
  | flushTx
  | flushRx
  | reuseTxPl
  | activate
  | rRxPlWid
  | wTxPayloadNoack
  | nop
  | wAckPayload (pipe : BitVec 3)
deriving DecidableEq, Repr

end Sys2Proof
end

