-- ==== Sys2Proof/Config.lean ====
section
/-! DEFINITION. What is fixed for one block (R7) and the values that the source leaves open. The open ones have no
body, so nothing can be proved of what they are; all of them concern the stage after the block (44_downstream_context.md). -/

namespace Sys2Proof

/-- SAMPLE_W, the width in which an issued operation carries a sample index: open, 64 by default (R7, D14). -/
def Config.sampleBits : Nat := 64

/-- MAX_TXN_BYTES: "1 command + 32 payload, the protocol maximum" (R7). -/
def Config.maxTxnBytes : Nat := 33

/-- "up to 16 payload bytes packed directly" (R142); a longer payload goes to the ExtendedDataStore. -/
def Config.inlineBytes : Nat := 16

/-- One of the two scalar fields holds 8 bytes (R148). -/
def Config.scalarBytes : Nat := 8

/-- Free value (N23, log entry 13): whether the midpoint of R148 is rounded up when the sum is odd. -/
opaque Config.midpointRoundsUp : Nat → Nat → Bool

/-- Free value (N21, log entry 12): whether the opcode is read-type, where the source does not say. -/
opaque Config.cmdIsRead : CmdOpcode → Bool

/-- Free value (N21, log entry 12): whether the opcode, with this register, carries data, where the source does not
say. -/
opaque Config.cmdCarriesData : CmdOpcode → BitVec 5 → Bool

/-- Free value (N21, log entry 12): the predicate has-payload, where the source does not say. -/
opaque Config.cmdHasPayload : CmdOpcode → BitVec 5 → Bool

/-- Free value (N22, log entry 12): which of the 24 places the address range has among the registers 1 to 30. -/
opaque Config.addressRangePlace : Fin 24

/-- The first register of "the contiguous register range covering the six RX pipe addresses through the TX address" (R146).
The range is seven registers and holds neither register 0, which is `CONFIG`, nor `0x1F`, which "is not a valid register"
(R145). DEDUCED, log entry 12. -/
def Config.firstAddressRegister : Nat := 1 + Config.addressRangePlace.val

/-- Free value (N24, log entry 14): whether `commit()` is called for an empty transaction. -/
opaque Config.commitOnEmpty : Bool

end Sys2Proof
end

