-- ==== Sys2Proof/WellFormed.lean ====
section
/-! DEFINITION. Which operands the spec gives an operation. `fits` says that the operands fit the fields of the issue
word; `legal` says that they are the operands the operation's rule names. -/

namespace Sys2Proof

/-- The channel each marker kind "may appear on" (R67). -/
def MarkKind.onChannel : MarkKind → Channel → Bool
  | .down, .sck => true
  | .up, .sck => true
  | .zero, .mosi => true
  | .zero, .miso => true
  | .one, .mosi => true
  | .one, .miso => true
  | .start, .csn => true
  | .stop, .csn => true
  | _, _ => false

/-- A sample index fits SAMPLE_W bits (R7). -/
def sampleFits (p : Nat) : Bool := decide (p < 2 ^ Config.sampleBits)

/-- Every operand fits its field of the issue word. -/
def Instr.fits : Instr → Bool
  | .seek _ p => sampleFits p
  | .opentxn a d => sampleFits a && sampleFits d
  | .emitmark p _ _ => sampleFits p
  | .progress p => sampleFits p
  | .bitstate _ | .nextedge _ | .peekedge _ | .moreedges _ => true
  | .advsck | .sync | .samplebit | .samplebyte _ => true
  | .findsel | .collect | .pushbyte | .closetxn | .halt _ | .run | .emittxn => true
  | .rRegister _ | .wRegister _ | .rRxPayload | .wTxPayload | .flushTx | .flushRx | .reuseTxPl => true
  | .activate | .rRxPlWid | .wTxPayloadNoack | .nop | .wAckPayload _ => true

/-- The operands are ones the operation's rule names: the pair of OPENTXN is a window, first sample before last
(R111, R112); the cause of HALT is CANCELLED or EXHAUSTED (R116); a marker's kind goes with its channel (R67). -/
def Instr.legal : Instr → Bool
  | .opentxn a d => decide (a < d)
  | .halt cause => decide (cause ≠ .none)
  | .emitmark _ kind channel => kind.onChannel channel
  | .bitstate _ | .nextedge _ | .seek _ _ | .peekedge _ | .moreedges _ => true
  | .advsck | .sync | .samplebit | .samplebyte _ => true
  | .findsel | .collect | .pushbyte | .closetxn | .run | .emittxn | .progress _ => true
  | .rRegister _ | .wRegister _ | .rRxPayload | .wTxPayload | .flushTx | .flushRx | .reuseTxPl => true
  | .activate | .rRxPlWid | .wTxPayloadNoack | .nop | .wAckPayload _ => true

/-- An instruction whose operands the spec gives it. -/
def Instr.wellFormed (i : Instr) : Bool := i.fits && i.legal

end Sys2Proof
end

