-- ==== Sys2Proof/Decode.lean ====
section
/-! DEFINITION. Codes, decoder, and after it the encoder. The numbers are those of 30_encoding.md R69 and
44_downstream_context.md R145; the operand codes are those of R60, R61, R66 and R67. Where the operands lie in the
issue word is this model's choice (log entry 2). -/

namespace Sys2Proof

/-! ### Numeric codes of the spec -/

/-- R61. -/
def Channel.code : Channel → Nat
  | .sck => 0
  | .csn => 1
  | .mosi => 2
  | .miso => 3

/-- R61, read back: every 2-bit code names a channel. -/
def channelOfCode (n : Nat) : Channel :=
  match n % 4 with
  | 0 => .sck
  | 1 => .csn
  | 2 => .mosi
  | _ => .miso

/-- R63: `RISING = 1`, `FALLING = 0`. -/
def EdgeDir.code : EdgeDir → Nat
  | .falling => 0
  | .rising => 1

/-- R67. -/
def MarkKind.code : MarkKind → Nat
  | .down => 0
  | .up => 1
  | .zero => 2
  | .one => 3
  | .start => 4
  | .stop => 5

/-- R67, read back; "Codes 6 and 7 are unused". -/
def markKindOfCode : Nat → Option MarkKind
  | 0 => some .down
  | 1 => some .up
  | 2 => some .zero
  | 3 => some .one
  | 4 => some .start
  | 5 => some .stop
  | _ => none

/-- R66. -/
def CtrlState.code : CtrlState → Nat
  | .idle => 0
  | .inTxn => 1
  | .byteDone => 2
  | .txnDone => 3
  | .halted => 4

/-- R66. -/
def HaltCause.code : HaltCause → Nat
  | .none => 0
  | .cancelled => 1
  | .exhausted => 2

/-- R66, read back; "code 3 unused". -/
def haltCauseOfCode : Nat → Option HaltCause
  | 0 => some .none
  | 1 => some .cancelled
  | 2 => some .exhausted
  | _ => none

/-! ### Classification of a command byte (R145) -/

/-- One row of R145's table. -/
structure CmdRow where
  mask : Byte
  pattern : Byte
  opcode : CmdOpcode
deriving DecidableEq, Repr

/-- The match and mask columns of R145, in the table's order. -/
def cmdRows : List CmdRow :=
  [⟨0xE0, 0x00, .rRegister⟩, ⟨0xE0, 0x20, .wRegister⟩, ⟨0xFF, 0x61, .rRxPayload⟩, ⟨0xFF, 0xA0, .wTxPayload⟩,
   ⟨0xFF, 0xE1, .flushTx⟩, ⟨0xFF, 0xE2, .flushRx⟩, ⟨0xFF, 0xE3, .reuseTxPl⟩, ⟨0xFF, 0x50, .activate⟩,
   ⟨0xFF, 0x60, .rRxPlWid⟩, ⟨0xFF, 0xB0, .wTxPayloadNoack⟩, ⟨0xFF, 0xFF, .nop⟩, ⟨0xF8, 0xA8, .wAckPayload⟩]

/-- The byte meets the row's match and mask. -/
def CmdRow.hits (r : CmdRow) (b : Byte) : Bool := decide (b &&& r.mask = r.pattern)

/-- "Classification is a pure function of the command byte, independent of payload"; anything else is `undefined`
(R145). -/
def classify (b : Byte) : CmdOpcode :=
  match cmdRows.find? (fun r => r.hits b) with
  | some r => r.opcode
  | none => .undefined

/-- `register(b) == b & 0x1F` (R145). -/
def cmdRegister (b : Byte) : BitVec 5 := b.extractLsb' 0 5

/-- "low 3 bits select the acknowledgment pipe" (R145). -/
def cmdPipe (b : Byte) : BitVec 3 := b.extractLsb' 0 3

/-- The instruction a command byte is, none where R145 classifies it `undefined`. -/
def instrOfCommand (b : Byte) : Option Instr :=
  match classify b with
  | .rRegister => some (.rRegister (cmdRegister b))
  | .wRegister => some (.wRegister (cmdRegister b))
  | .rRxPayload => some .rRxPayload
  | .wTxPayload => some .wTxPayload
  | .flushTx => some .flushTx
  | .flushRx => some .flushRx
  | .reuseTxPl => some .reuseTxPl
  | .activate => some .activate
  | .rRxPlWid => some .rRxPlWid
  | .wTxPayloadNoack => some .wTxPayloadNoack
  | .nop => some .nop
  | .wAckPayload => some (.wAckPayload (cmdPipe b))
  | .undefined => none

/-! ### The fields of the issue word

bits 7..0 number or command byte; 15..8 small operand: channel id (or cause, or `first`) in its low bits, marker kind in
its bits 4..2, and its top bit set for a command byte; 79..16 first sample index; 143..80 second sample index. -/

/-- Bits 7..0. -/
def fieldNumber (w : OpWord) : Nat := w.toNat % 256

/-- Bits 15..8. -/
def fieldSmall (w : OpWord) : Nat := w.toNat / 256 % 256

/-- Bits 79..16. -/
def fieldSampleA (w : OpWord) : Nat := w.toNat / 2 ^ 16 % 2 ^ 64

/-- Bits 143..80. -/
def fieldSampleB (w : OpWord) : Nat := w.toNat / 2 ^ 80 % 2 ^ 64

/-- The small operand of a word that carries a command byte. -/
def commandSpace : Nat := 128

/-- Why a word is no instruction. -/
inductive DecodeError where
  /-- An operation number that R69's table does not list: it "name[s] no operation" (R70). -/
  | reservedNumber
  /-- A bit that the operation gives no meaning is set. -/
  | reservedBits
  /-- An unused code of an operand: marker kinds 6 and 7, halt cause 3 (R66, R67, R70). -/
  | unusedCode
  /-- A command byte that R145 classifies `undefined`; the step still produces its frame. -/
  | undefinedCommand (b : Byte)
deriving DecidableEq, Repr

/-- What the decoder answers. -/
inductive Decoded where
  | ok (i : Instr)
  | bad (e : DecodeError)
deriving DecidableEq, Repr

/-- Accept `i` when every bit it gives no meaning is zero. -/
def acceptIf (unusedBitsZero : Bool) (i : Instr) : Decoded :=
  if unusedBitsZero then .ok i else .bad .reservedBits

/-- A word whose small operand is that of a command byte. -/
def decodeCommand (number a b : Nat) : Decoded :=
  match instrOfCommand (BitVec.ofNat 8 number) with
  | some i => acceptIf (a == 0 && b == 0) i
  | none => if a == 0 && b == 0 then .bad (.undefinedCommand (BitVec.ofNat 8 number)) else .bad .reservedBits

/-- The operation numbers of R69, with the operands of `opcode_table.json`'s rows. -/
def decodeOperation (number small a b : Nat) : Decoded :=
  match number with
  | 0b00001 => acceptIf (decide (small < 4) && a == 0 && b == 0) (.bitstate (channelOfCode small))
  | 0b00010 => acceptIf (decide (small < 4) && a == 0 && b == 0) (.nextedge (channelOfCode small))
  | 0b00011 => acceptIf (decide (small < 4) && b == 0) (.seek (channelOfCode small) a)
  | 0b00100 => acceptIf (decide (small < 4) && a == 0 && b == 0) (.peekedge (channelOfCode small))
  | 0b00101 => acceptIf (decide (small < 4) && a == 0 && b == 0) (.moreedges (channelOfCode small))
  | 0b01000 => acceptIf (small == 0 && a == 0 && b == 0) .advsck
  | 0b01001 => acceptIf (small == 0 && a == 0 && b == 0) .sync
  | 0b01010 => acceptIf (small == 0 && a == 0 && b == 0) .samplebit
  | 0b01011 => acceptIf (decide (small < 2) && a == 0 && b == 0) (.samplebyte (small == 1))
  | 0b10000 => acceptIf (small == 0 && a == 0 && b == 0) .findsel
  | 0b10001 => acceptIf (small == 0) (.opentxn a b)
  | 0b10010 => acceptIf (small == 0 && a == 0 && b == 0) .collect
  | 0b10011 => acceptIf (small == 0 && a == 0 && b == 0) .pushbyte
  | 0b10100 => acceptIf (small == 0 && a == 0 && b == 0) .closetxn
  | 0b10101 =>
    if small < 4 then
      match haltCauseOfCode small with
      | some cause => acceptIf (a == 0 && b == 0) (.halt cause)
      | none => .bad .unusedCode
    else .bad .reservedBits
  | 0b10110 => acceptIf (small == 0 && a == 0 && b == 0) .run
  | 0b11000 =>
    if small < 32 then
      match markKindOfCode (small / 4) with
      | some kind => acceptIf (b == 0) (.emitmark a kind (channelOfCode small))
      | none => .bad .unusedCode
    else .bad .reservedBits
  | 0b11001 => acceptIf (small == 0 && a == 0 && b == 0) .emittxn
  | 0b11010 => acceptIf (small == 0 && b == 0) (.progress a)
  | _ => .bad .reservedNumber

/-- The decoder: total on every word, rejecting by name. -/
def decode (w : OpWord) : Decoded :=
  if fieldSmall w = commandSpace then decodeCommand (fieldNumber w) (fieldSampleA w) (fieldSampleB w)
  else decodeOperation (fieldNumber w) (fieldSmall w) (fieldSampleA w) (fieldSampleB w)

/-! ### The encoder -/

/-- A word from its four fields. -/
def packWord (number small a b : Nat) : OpWord :=
  BitVec.ofNat 144 (number + small * 256 + a * 2 ^ 16 + b * 2 ^ 80)

/-- The word of a command byte. -/
def packCommand (b : Byte) : OpWord := packWord b.toNat commandSpace 0 0

/-- The word of an instruction (R69 numbers, R145 bytes, R60/R61/R66/R67 operand codes). -/
def encode : Instr → OpWord
  | .bitstate c => packWord 0b00001 c.code 0 0
  | .nextedge c => packWord 0b00010 c.code 0 0
  | .seek c p => packWord 0b00011 c.code p 0
  | .peekedge c => packWord 0b00100 c.code 0 0
  | .moreedges c => packWord 0b00101 c.code 0 0
  | .advsck => packWord 0b01000 0 0 0
  | .sync => packWord 0b01001 0 0 0
  | .samplebit => packWord 0b01010 0 0 0
  | .samplebyte first => packWord 0b01011 first.toNat 0 0
  | .findsel => packWord 0b10000 0 0 0
  | .opentxn a d => packWord 0b10001 0 a d
  | .collect => packWord 0b10010 0 0 0
  | .pushbyte => packWord 0b10011 0 0 0
  | .closetxn => packWord 0b10100 0 0 0
  | .halt cause => packWord 0b10101 cause.code 0 0
  | .run => packWord 0b10110 0 0 0
  | .emitmark p kind channel => packWord 0b11000 (channel.code + 4 * kind.code) p 0
  | .emittxn => packWord 0b11001 0 0 0
  | .progress p => packWord 0b11010 0 p 0
  | .rRegister r => packCommand (0b000#3 ++ r)
  | .wRegister r => packCommand (0b001#3 ++ r)
  | .rRxPayload => packCommand 0x61
  | .wTxPayload => packCommand 0xA0
  | .flushTx => packCommand 0xE1
  | .flushRx => packCommand 0xE2
  | .reuseTxPl => packCommand 0xE3
  | .activate => packCommand 0x50
  | .rRxPlWid => packCommand 0x60
  | .wTxPayloadNoack => packCommand 0xB0
  | .nop => packCommand 0xFF
  | .wAckPayload pipe => packCommand (0b10101#5 ++ pipe)

/-! ### The words of spec/opcode_table.json -/

/-- The nineteen operation numbers of R69. -/
def opNumbers : List Nat := [1, 2, 3, 4, 5, 8, 9, 10, 11, 16, 17, 18, 19, 20, 21, 22, 24, 25, 26]

/-- A word of the opcode table laid out as an issue word. The table holds two spaces of numbers in its low eight bits
(operation numbers, and command bytes of which some have the same value): a word that is an operation number of R69 is
that operation, any other byte is a command byte. DESIGN CHOICE, log entry 2. -/
def tableWord (nbits w : Nat) : OpWord :=
  let v := w % 2 ^ nbits
  if v ∈ opNumbers ∨ 256 ≤ v then BitVec.ofNat 144 v else BitVec.ofNat 144 (v + commandSpace * 256)

/-- The instruction that the decoder reads from a word of the opcode table. -/
def decodeTableWord (nbits w : Nat) : Option Instr :=
  match decode (tableWord nbits w) with
  | .ok i => some i
  | .bad _ => none

end Sys2Proof
end

