-- ==== Sys2Proof/Machine/State.lean ====
section
/-! DEFINITION. The records of the spec, the state of the machine as plain data, the reasons a step can stop, and the
state after reset. -/

namespace Sys2Proof.Machine

/-! ### The input -/

/-- The samples of the four channels at one sample index (R40); `true` is the high level and bit value 1 (R44, R60). -/
structure Instant where
  sck : Bool
  csn : Bool
  mosi : Bool
  miso : Bool
deriving DecidableEq, Repr

/-! ### Records (30_encoding.md section 2) -/

/-- BitMarker (R17, R63). -/
structure BitMarker where
  sample : Nat
  dir : EdgeDir
  mosi : Bool
  miso : Bool
deriving DecidableEq, Repr

/-- SampledByte (R18, R64). -/
structure SampledByte where
  mosi : Byte
  miso : Byte
  firstSample : Nat
  lastSample : Nat
  marks : Vector BitMarker 8
deriving DecidableEq, Repr

/-- The Transaction record (R65). -/
structure Transaction where
  count : BitVec 6
  bytes : List SampledByte
  selectLow : Nat
  selectHigh : Nat
deriving DecidableEq, Repr

/-- The three messages of the block (R67, R68, R130). -/
inductive Message where
  | mark (sample : Nat) (kind : MarkKind) (channel : Channel)
  | txn (t : Transaction)
  | progress (sample : Nat)
deriving DecidableEq, Repr

/-! ### Registers -/

/-- The four cursors P[c] (R11). -/
structure Cursors where
  sck : Nat
  csn : Nat
  mosi : Nat
  miso : Nat
deriving DecidableEq, Repr

/-- A register number that is decoded: "`0x1F` itself is not a valid register and must decode to 'undefined
register'" (R145). -/
inductive RegisterName where
  | defined (r : BitVec 5)
  | undefinedRegister
deriving DecidableEq, Repr

/-- What the last issued operation that has a result answered. The model's own, log entry 6: the rules give results,
the spec gives them no register. -/
inductive OpResult where
  /-- No result. -/
  | none
  /-- BITSTATE: the level of the channel (R81). -/
  | level (high : Bool)
  /-- NEXTEDGE and PEEKEDGE: the index of the edge (R82, R84). -/
  | edge (p : Nat)
  /-- MOREEDGES (R85). -/
  | more (yes : Bool)
  /-- ADVSCK: OK (R90). -/
  | ok
  /-- ADVSCK: FAIL (R90). -/
  | fail
  /-- SAMPLEBYTE: a SampledByte, in register BYTE (R92). -/
  | word
  /-- SAMPLEBYTE and SAMPLEBIT: END, "end-of-transaction" (R92, R94). -/
  | endOfTxn
  /-- FINDSEL: the pair of samples (R111). -/
  | window (a d : Nat)
  /-- A command byte: its class, with the register and the pipe it selects (R145). -/
  | classified (opcode : CmdOpcode) (register : Option RegisterName) (pipe : Option (BitVec 3))
deriving DecidableEq, Repr

/-! ### The stage after the block (44_downstream_context.md) -/

/-- Which data line carries a payload (R142). -/
inductive DataLine where
  | hostToDevice | deviceToHost
deriving DecidableEq, Repr

/-- CommandFrame (R141). `anomaly`: an undefined opcode or register was met (R154). -/
structure CommandFrame where
  opcodeByte : Byte
  status : Byte
  firstSample : Nat
  lastSample : Nat
  anomaly : Bool
deriving DecidableEq, Repr

/-- Where a payload is kept: "up to 16 payload bytes packed directly into two fixed-size scalar fields", or "an index
into an ExtendedDataStore" (R142, R148). -/
inductive Payload where
  | inline (firstField secondField : List Byte)
  | extended (offset : Nat)
deriving DecidableEq, Repr

/-- DataFrame (R142). `anomaly`: the opcode expects no payload (R148, R154). -/
structure DataFrame where
  length : Nat
  line : DataLine
  firstSample : Nat
  lastSample : Nat
  payload : Payload
  anomaly : Bool
deriving DecidableEq, Repr

/-- One entry of the result store (R152). -/
inductive Frame where
  | command (f : CommandFrame)
  | data (f : DataFrame)
deriving DecidableEq, Repr

/-- DecodedCommand (R144), with the pipe of W_ACK_PAYLOAD surfaced (R145, R155): a value that is built on demand
(`Downstream.decodedAt`). No field of State holds one: "Recomputed whenever the frame pair being viewed changes; not
persisted". -/
structure DecodedCommand where
  opcode : CmdOpcode
  register : Option RegisterName
  pipe : Option (BitVec 3)
  payload : List Byte
  isRegisterAccess : Bool
  isRead : Bool
  hasPayload : Bool
  hasAddress : Bool
  carriesData : Bool
deriving DecidableEq, Repr

/-- The state of the stage after the block: how many of the handed-over Transactions have been assembled, the result
store and the ExtendedDataStore, both append-only (R143), the calls of `commit()` (R152), and which frame pair is being
viewed, as the index of its CommandFrame in the result store (R144; that it is the pair assembled last is the model's
choice, log entry 20). -/
structure Downstream where
  assembled : Nat
  frames : List Frame
  extStore : List Byte
  commits : Nat
  viewed : Option Nat
deriving DecidableEq, Repr

/-! ### The state -/

/-- Everything the spec gives the machine (R10), its two inputs (R20, R21), its output sequence (R130), the stage after
it, and two fields of the model's own, `issue` and `result`. -/
structure State where
  /-- The four traces W[c], one Instant a sample index; N is its length (R40). An input: no operation writes it. -/
  capture : List Instant
  /-- What CANCEL_REQ reads at its next reads; it reads 0 after the last entry (R21, log entry 5). An input. -/
  cancelDraws : List Bool
  /-- P[SCK], P[CSN], P[MOSI], P[MISO] (R11). -/
  cur : Cursors
  /-- ST (R12). -/
  st : CtrlState
  /-- HALT_CAUSE (R12). -/
  haltCause : HaltCause
  /-- SEL_LOW (R13). -/
  selLow : Nat
  /-- SEL_HIGH (R13). -/
  selHigh : Nat
  /-- FIRST (R14). -/
  first : Bool
  /-- FALL (R15). -/
  fall : Bool
  /-- BITIDX (R16). -/
  bitIdx : BitVec 3
  /-- MOSI_ACC (R16). -/
  mosiAcc : Byte
  /-- MISO_ACC (R16). -/
  misoAcc : Byte
  /-- MK[0..7] (R17). -/
  marks : Vector BitMarker 8
  /-- BYTE (R18). -/
  byte : SampledByte
  /-- TXN[0 .. RCOUNT-1] (R19): "Entries at or above RCOUNT hold no value", so RCOUNT is the length of this list,
  read by `State.rcount` (log entry 7). -/
  txn : List SampledByte
  /-- OUT (R130). -/
  out : List Message
  /-- The stage after the block (R140 to R155). -/
  down : Downstream
  /-- Operations that a harness has issued and that have not run yet, oldest first; with none, the block runs by itself.
  The model's own, log entry 2. -/
  issue : List OpWord
  /-- The result of the last issued operation that has one. The model's own, log entry 6. -/
  result : OpResult
deriving DecidableEq, Repr

/-! ### Why a step stops -/

/-- The machine has stopped. -/
inductive Fault where
  /-- Every block operation in HALTED, and the block's own next step there: "No operation is defined in `HALTED`" (R116),
  93_implementation_defined.md U5 "stuck". It is the defined end of a run. Safe. -/
  | halted
  /-- A primitive reads a sample at a cursor that is outside 0 .. N-1, the whole address space (R41). In no state a run
  reaches. Safe. -/
  | sampleOutsideCapture
deriving DecidableEq, Repr

/-- The spec gives the operation no meaning on these operands or in this state. -/
inductive Refusal where
  /-- An instruction that has no meaning in the model yet; raised by exec's arms alone. Safe. -/
  | notModelled (mnemonic : String)
  /-- A block operation with no capture loaded: N = 0, "refuse (the run is not started)" (U8, R183). Safe. -/
  | noCapture
  /-- An operation in a control state other than the one its rule names (U4). Safe. -/
  | wrongControlState
  /-- NEXTEDGE or PEEKEDGE with no further edge (R82, R84, U1, U2). Safe. -/
  | noFurtherEdge
  /-- SEEK to a sample before the cursor (R83, U3). Safe. -/
  | seekBackwards
  /-- SEEK beyond sample N-1 (R83, U3). Safe. -/
  | seekPastEnd
  /-- HALT with a cause that is not CANCELLED or EXHAUSTED (R116). Safe. -/
  | haltCauseNotGiven
  /-- EMITTXN with more than 33 entries: "a `count` above 33 cannot be produced" (R65, R70). In no state a run reaches.
  Safe. -/
  | countOutOfRange
  /-- RUN has not halted within its bound of transitions. In no state from which a run starts; log entry 8. Safe. -/
  | runUnfinished
  /-- The issued word has an operation number that R69 does not list (R70). Safe. -/
  | reservedNumber
  /-- The issued word sets a bit that its operation gives no meaning. Safe. -/
  | reservedBits
  /-- The issued word holds an unused code of an operand (R70, U9). Safe. -/
  | unusedCode
deriving DecidableEq, Repr

/-! ### Reset (R180, R181) -/

/-- A marker record at reset: the spec gives none, zero is the model's (log entry 1). -/
def BitMarker.zero : BitMarker := ⟨0, .falling, false, false⟩

/-- A SampledByte at reset: the spec gives none, zero is the model's (log entry 1). -/
def SampledByte.zero : SampledByte := ⟨0, 0, 0, 0, Vector.replicate 8 BitMarker.zero⟩

/-- The stage after the block at the start of a session: nothing assembled, both stores empty, no commit and no pair in
view. The spec states none of these (R181 lists the block alone): the model's choice, DESIGN CHOICE, log entry 24. -/
def Downstream.reset : Downstream := ⟨0, [], [], 0, none⟩

/-- The machine right after reset (R181): ST = IDLE, HALT_CAUSE = NONE, all four cursors 0, OUT empty. Every other
register is unspecified in the spec and zero here (log entry 1); no capture is loaded (log entry 4). -/
def State.reset : State where
  capture := []
  cancelDraws := []
  cur := ⟨0, 0, 0, 0⟩
  st := .idle
  haltCause := .none
  selLow := 0
  selHigh := 0
  first := false
  fall := false
  bitIdx := 0
  mosiAcc := 0
  misoAcc := 0
  marks := Vector.replicate 8 BitMarker.zero
  byte := SampledByte.zero
  txn := []
  out := []
  down := Downstream.reset
  issue := []
  result := .none

end Sys2Proof.Machine
end

