-- ==== Sys2Proof/Machine/Operands.lean ====
section
/-! DEFINITION. The operand forms of the block: a channel (its line and its cursor), edges (20_memory.md R42), the
control state an operation is issued in, and a capture written in the run-length form of R71. -/

namespace Sys2Proof.Machine

/-- W[c][s] of one instant (R40). -/
def Instant.line (x : Instant) : Channel → Bool
  | .sck => x.sck
  | .csn => x.csn
  | .mosi => x.mosi
  | .miso => x.miso

/-- P[c] (R11). -/
def Cursors.get (p : Cursors) : Channel → Nat
  | .sck => p.sck
  | .csn => p.csn
  | .mosi => p.mosi
  | .miso => p.miso

/-- P[c] <- v: "writing one never changes another" (R11). -/
def Cursors.set (p : Cursors) (c : Channel) (v : Nat) : Cursors :=
  match c with
  | .sck => { p with sck := v }
  | .csn => { p with csn := v }
  | .mosi => { p with mosi := v }
  | .miso => { p with miso := v }

/-- All four cursors at one sample. -/
def Cursors.all (v : Nat) : Cursors := ⟨v, v, v, v⟩

/-- W[c][s], none outside 0 .. N-1 (R40, R41). -/
def sampleAt (w : List Instant) (c : Channel) (p : Nat) : Option Bool :=
  (w[p]?).map fun x => x.line c

/-- The least index after `at'` whose sample and the one before it satisfy `hit`, in the samples that follow one of
level `prev`. -/
def scan (hit : Bool → Bool → Bool) (c : Channel) (prev : Bool) (rest : List Instant) (at' : Nat) : Option Nat :=
  match rest with
  | [] => none
  | x :: more => if hit prev (x.line c) then some (at' + 1) else scan hit c (x.line c) more (at' + 1)

/-- The least sample after `p` at which the channel's level and the one before it satisfy `hit`. -/
def scanAfter (hit : Bool → Bool → Bool) (w : List Instant) (c : Channel) (p : Nat) : Option Nat :=
  match w.drop p with
  | [] => none
  | x :: rest => scan hit c (x.line c) rest p

/-- The two samples differ: an edge (R42). -/
def isChange (prev now : Bool) : Bool := prev != now

/-- High, then low: a falling edge (R42). -/
def isFall (prev now : Bool) : Bool := prev && !now

/-- `next_edge(c, p)`: "the least edge `s` of `c` with `s > p`, or `INF` when there is none" (R42); none is INF. -/
def nextEdge (w : List Instant) (c : Channel) (p : Nat) : Option Nat := scanAfter isChange w c p

/-- The least falling edge of the channel after `p` (R111). -/
def nextFallingEdge (w : List Instant) (c : Channel) (p : Nat) : Option Nat := scanAfter isFall w c p

/-- The control state that the operation's rule names as its precondition (41_sampler.md, rules R110 to R116, R134);
none where its rule names none. -/
def needsState : Instr → Option CtrlState
  | .bitstate _ | .nextedge _ | .seek _ _ | .peekedge _ | .moreedges _ => none
  | .advsck | .sync | .samplebit | .samplebyte _ => some .inTxn
  | .findsel | .opentxn _ _ | .halt _ | .run => some .idle
  | .collect => some .inTxn
  | .pushbyte => some .byteDone
  | .closetxn | .emittxn => some .txnDone
  | .emitmark _ _ _ | .progress _ => none
  | .rRegister _ | .wRegister _ | .rRxPayload | .wTxPayload | .flushTx | .flushRx | .reuseTxPl => none
  | .activate | .rRxPlWid | .wTxPayloadNoack | .nop | .wAckPayload _ => none

/-- One line of a capture in the run-length form `v*n` of R71. -/
def lineOfRuns (runs : List (Bool × Nat)) : List Bool := runs.flatMap fun r => List.replicate r.2 r.1

/-- A capture from its four lines in the order SCK, CSN, MOSI, MISO (R71); it is as long as the shortest. -/
def captureOfLines : List Bool → List Bool → List Bool → List Bool → List Instant
  | k :: ks, s :: ss, o :: os, i :: is => ⟨k, s, o, i⟩ :: captureOfLines ks ss os is
  | _, _, _, _ => []

end Sys2Proof.Machine
end

