-- ==== Sys2Proof/Machine/Flags.lean ====
section
/-! DEFINITION. The block's two flags, FIRST and FALL, and the values computed from a line's level. "No other flag,
condition code or predicate exists in the block" (R15). -/

namespace Sys2Proof.Machine

/-- FALL after the entry phase, where the clock is high there: "the clock is currently high and this is the first byte of
a transaction" (R93 (b)). -/
def fallAtEntry (clockHigh first : Bool) : Bool := clockHigh && first

/-- The direction recorded for a bit: FALLING when FALL is set (R94). -/
def dirOfBit (fall : Bool) : EdgeDir := if fall then .falling else .rising

/-- `ACC <- { ACC[6:0], b }`: shift left by one, new bit in bit 0 (R16, R94). -/
def shiftIn (acc : Byte) (b : Bool) : Byte := acc.extractLsb' 0 7 ++ BitVec.ofBool b

/-- The kind of a clock marker (R132). -/
def kindOfDir : EdgeDir → MarkKind
  | .rising => .up
  | .falling => .down

/-- The kind of a data line's marker (R132). -/
def kindOfBit (b : Bool) : MarkKind := if b then .one else .zero

end Sys2Proof.Machine
end

