-- ==== Sys2Proof/Machine/Ops.lean ====
section
/-! DEFINITION. The shared operations: sequencing, the guards of an operation, moving cursors, advancing the clock, the
end of a window (the one event of this block that takes the place of an exception, R166) and the return from it (R167),
appending to OUT, and taking an issued operation from the issue port. -/

namespace Sys2Proof.Machine

/-- A value, a fault or a refusal. -/
abbrev Res (α : Type) := Host.Outcome α Fault Refusal

/-- Go on with the value; stop where the first part stops. -/
def andThen {α β : Type} (x : Res α) (f : α → Res β) : Res β :=
  match x with
  | .next a => f a
  | .fault r => .fault r
  | .refused r => .refused r

/-- Go on unless the first part returned END; "Each `return END` inside a phase ends the whole `SAMPLEBYTE` with result
`END`" (R92). The flag of a pair is `false` for END (and for FAIL). -/
def unlessEnd (x : Res (State × Bool)) (f : State → Res (State × Bool)) : Res (State × Bool) :=
  andThen x fun r => if r.2 then f r.1 else .next (r.1, false)

/-- N (R7). -/
def State.size (s : State) : Nat := s.capture.length

/-- RCOUNT, the number of entries in use of the transaction buffer, 6 bits (R19, log entry 7). -/
def State.rcount (s : State) : BitVec 6 := BitVec.ofNat 6 s.txn.length

/-! ### Named updates -/

/-- P[c] <- v. -/
def State.setCursor (s : State) (c : Channel) (v : Nat) : State := { s with cur := s.cur.set c v }

/-- ST <- x. -/
def State.setCtrl (s : State) (x : CtrlState) : State := { s with st := x }

/-- The result of the operation. -/
def State.setResult (s : State) (r : OpResult) : State := { s with result := r }

/-- `OUT <- OUT ++ [ m ]` (R130). -/
def State.emit (s : State) (m : Message) : State := { s with out := s.out ++ [m] }

/-- `OUT <- OUT ++ ms`, the messages in order. -/
def State.emitAll (s : State) (ms : List Message) : State := { s with out := s.out ++ ms }

/-! ### Guards -/

/-- A block operation runs only while a run is on: a capture is loaded (U8, R183), the machine is not HALTED (U5, R116),
and ST is the state the operation's rule names, where it names one (U4). -/
def requireOp (need : Option CtrlState) (s : State) (go : Res State) : Res State :=
  if s.capture = [] then .refused .noCapture
  else if s.st = .halted then .fault .halted
  else
    match need with
    | none => go
    | some x => if s.st = x then go else .refused .wrongControlState

/-! ### Cursors -/

/-- BITSTATE's read: W[c][P[c]] (R81). -/
def readLevel (c : Channel) (s : State) : Res Bool :=
  match sampleAt s.capture c (s.cur.get c) with
  | some b => .next b
  | none => .fault .sampleOutsideCapture

/-- SEEK's move: "if s < P[c] or s > N-1 then refuse" (R83). -/
def seekTo (c : Channel) (p : Nat) (s : State) : Res State :=
  if p < s.cur.get c then .refused .seekBackwards
  else if s.size ≤ p then .refused .seekPastEnd
  else .next (s.setCursor c p)

/-- Four SEEKs, in the order SCK, CSN, MOSI, MISO (R90, R112, R115). -/
def seekAll (p : Nat) (s : State) : Res State :=
  andThen (seekTo .sck p s) fun s1 =>
  andThen (seekTo .csn p s1) fun s2 =>
  andThen (seekTo .mosi p s2) fun s3 => seekTo .miso p s3

/-- The clock edge `e`, where none is INF, is at or after the deassertion sample (R90). -/
def edgeEndsWindow (e : Option Nat) (selHigh : Nat) : Bool :=
  match e with
  | none => true
  | some p => decide (selHigh ≤ p)

/-! ### The end of a window, in the place of an exception (R161, R166) -/

/-- Step (1) of R166: "sets all four cursors to `SEL_HIGH`". -/
def landOnDeassertion (s : State) : Res State := seekAll s.selHigh s

/-- Step (3) of R166: the Segmenter sets ST to TXN_DONE on END, and to BYTE_DONE on a byte (R113). -/
def afterSampler (gotByte : Bool) (s : State) : State :=
  s.setCtrl (if gotByte then .byteDone else .txnDone)

/-- "Return": back to IDLE (R115, R167). -/
def returnToIdle (s : State) : State := s.setCtrl .idle

/-- The clock-advance call (R90): `true` is OK, `false` is FAIL. -/
def advanceClock (s : State) : Res (State × Bool) :=
  let e := nextEdge s.capture .sck s.cur.sck
  if edgeEndsWindow e s.selHigh then
    andThen (landOnDeassertion s) fun s' => .next (s', false)
  else .next (s.setCursor .sck (e.getD s.cur.sck), true)

/-- The other three lines follow the clock: three SEEKs (R91). -/
def syncLines (s : State) : Res State :=
  andThen (seekTo .csn s.cur.sck s) fun s1 =>
  andThen (seekTo .mosi s.cur.sck s1) fun s2 => seekTo .miso s.cur.sck s2

/-! ### Inputs -/

/-- One read of CANCEL_REQ (R21, R117, log entry 5). -/
def readCancel (s : State) : Bool × State :=
  match s.cancelDraws with
  | [] => (false, s)
  | b :: rest => (b, { s with cancelDraws := rest })

/-- The oldest issued word, and the state without it. -/
def takeIssued (s : State) : Option (OpWord × State) :=
  match s.issue with
  | [] => none
  | w :: rest => some (w, { s with issue := rest })

end Sys2Proof.Machine
end

