-- ==== Sys2Proof/Machine/Cursor.lean ====
section
/-! DEFINITION. The cursor primitives (40_cursor_primitives.md). "Each primitive addresses exactly one channel `c` and
reads or writes only `P[c]` and `W[c]`" (R80). -/

namespace Sys2Proof.Machine

/-- BITSTATE c: W[c][P[c]] (R81). -/
def execBitstate (c : Channel) (s : State) : Res State :=
  requireOp none s <| andThen (readLevel c s) fun high => .next (s.setResult (.level high))

/-- NEXTEDGE c: the cursor moves to the next edge, which is the result; no edge is refused (R82). -/
def execNextedge (c : Channel) (s : State) : Res State :=
  requireOp none s <|
    match nextEdge s.capture c (s.cur.get c) with
    | none => .refused .noFurtherEdge
    | some e => .next ((s.setCursor c e).setResult (.edge e))

/-- SEEK c, p: forward, within the capture (R83). -/
def execSeek (c : Channel) (p : Nat) (s : State) : Res State :=
  requireOp none s <| seekTo c p s

/-- PEEKEDGE c: the next edge, the cursor stays (R84). -/
def execPeekedge (c : Channel) (s : State) : Res State :=
  requireOp none s <|
    match nextEdge s.capture c (s.cur.get c) with
    | none => .refused .noFurtherEdge
    | some e => .next (s.setResult (.edge e))

/-- MOREEDGES c: whether there is a further edge (R85). -/
def execMoreedges (c : Channel) (s : State) : Res State :=
  requireOp none s <| .next (s.setResult (.more (nextEdge s.capture c (s.cur.get c)).isSome))

end Sys2Proof.Machine
end

