-- ==== Sys2Proof/Machine/Downstream.lean ====
section
/-! DEFINITION. The stage after the block: the Frame/Command Assembler and the Command Semantic Decoder
(44_downstream_context.md), and the twelve command bytes of R145 as instructions. No operation of the block reads anything
of this stage (R140). What an issued command byte does is log entry 15. -/

namespace Sys2Proof.Machine

/-! ### What an opcode carries (R146) -/

/-- "carry no data at all" (R146). -/
def cmdCarriesNothing : CmdOpcode → Bool
  | .flushTx | .flushRx | .reuseTxPl | .nop => true
  | .rRegister | .wRegister | .rRxPayload | .wTxPayload | .activate | .rRxPlWid | .wTxPayloadNoack | .wAckPayload
  | .undefined => false

/-- "carry a data payload" (R146). -/
def cmdCarriesPayload : CmdOpcode → Bool
  | .wTxPayload | .rRxPayload | .wAckPayload | .wTxPayloadNoack => true
  | .rRegister | .wRegister | .flushTx | .flushRx | .reuseTxPl | .activate | .rRxPlWid | .nop | .undefined => false

/-- The register opcodes: is-register-access (R144). -/
def cmdIsRegister : CmdOpcode → Bool
  | .rRegister | .wRegister => true
  | .rRxPayload | .wTxPayload | .flushTx | .flushRx | .reuseTxPl | .activate | .rRxPlWid | .wTxPayloadNoack | .nop
  | .wAckPayload | .undefined => false

/-- has-address: register opcodes, "only for the contiguous register range covering the six RX pipe addresses through
the TX address" (R146), seven registers inside 1 to 30, the first of them open (N22, log entry 12). -/
def cmdHasAddress (op : CmdOpcode) (r : BitVec 5) : Bool :=
  cmdIsRegister op && decide (Config.firstAddressRegister ≤ r.toNat) && decide (r.toNat < Config.firstAddressRegister + 7)

/-- carries-data (R144): false and true where R146 says so, true for an address and for the W_REGISTER of register 0 that
the source's Scenario 1 shows with a data byte, open elsewhere (N21). -/
def cmdCarriesData (op : CmdOpcode) (r : BitVec 5) : Bool :=
  if cmdCarriesNothing op then false
  else if cmdCarriesPayload op || (decide (op = .wRegister) && decide (r = 0)) || cmdHasAddress op r then true
  else Config.cmdCarriesData op r

/-- has-payload (R144): false and true where R146 says so, open elsewhere (N21). -/
def cmdHasPayload (op : CmdOpcode) (r : BitVec 5) : Bool :=
  if cmdCarriesNothing op then false
  else if cmdCarriesPayload op then true
  else Config.cmdHasPayload op r

/-- is-read (R144): R_RX_PAYLOAD is and W_REGISTER is not, from the source's Scenarios 2 and 1; open elsewhere (N21). -/
def cmdIsRead : CmdOpcode → Bool
  | .rRxPayload => true
  | .wRegister => false
  | op => Config.cmdIsRead op

/-- The line a payload is taken from: "device→host for read-type opcodes, host→device otherwise" (R148). -/
def lineOfCommand (op : CmdOpcode) : DataLine := if cmdIsRead op then .deviceToHost else .hostToDevice

/-- `0x1F` "must decode to 'undefined register'" (R145). -/
def registerName (r : BitVec 5) : RegisterName := if r = 0x1F then .undefinedRegister else .defined r

/-- The register that a command byte of this class selects (R145). -/
def registerOfCommand (b : Byte) : Option RegisterName :=
  if cmdIsRegister (classify b) then some (registerName (cmdRegister b)) else none

/-- The pipe that a command byte of this class selects (R145). -/
def pipeOfCommand (b : Byte) : Option (BitVec 3) := if classify b = .wAckPayload then some (cmdPipe b) else none

/-! ### Assembling (R147 to R149) -/

/-- The byte of one line. -/
def byteOnLine (line : DataLine) (b : SampledByte) : Byte :=
  match line with
  | .hostToDevice => b.mosi
  | .deviceToHost => b.miso

/-- "the midpoint between the command's natural end and the payload's natural start" (R148); which way an odd sum is
rounded is open (N23). -/
def midSample (x y : Nat) : Nat :=
  if (x + y) % 2 = 1 && Config.midpointRoundsUp x y then (x + y) / 2 + 1 else (x + y) / 2

/-- Inline up to 16 bytes, "8 bytes each" and "first field then second"; else the offset in the ExtendedDataStore at which
the bytes begin (R148, R150). -/
def storePayload (bytes : List Byte) (storeLength : Nat) : Payload :=
  if bytes.length ≤ Config.inlineBytes then
    .inline (bytes.take Config.scalarBytes) (bytes.drop Config.scalarBytes)
  else .extended storeLength

/-- The bytes that go to the ExtendedDataStore: none for an inline payload (R148). -/
def extendedBytes (bytes : List Byte) : List Byte := if bytes.length ≤ Config.inlineBytes then [] else bytes

/-- An undefined opcode or register (R154). -/
def cmdAnomaly (b : Byte) : Bool :=
  decide (classify b = .undefined) || (cmdIsRegister (classify b) && decide (registerName (cmdRegister b) = .undefinedRegister))

/-- The payload bytes of a Transaction's bytes after the first (R148). -/
def payloadOf (opcodeByte : Byte) (rest : List SampledByte) : List Byte :=
  rest.map (byteOnLine (lineOfCommand (classify opcodeByte)))

/-- The DataFrame of the bytes after the first, from sample `start` (R142, R148). That the flag for an opcode which
"expect[s] no payload" is decided by the predicate carries-data, and not by has-payload, is the model's choice: DESIGN
CHOICE, log entry 26. -/
def dataFrameOf (opcodeByte : Byte) (rest : List SampledByte) (start selectHigh : Nat) (storeLength : Nat) : DataFrame :=
  let bytes := payloadOf opcodeByte rest
  { length := bytes.length
    line := lineOfCommand (classify opcodeByte)
    firstSample := start
    lastSample := selectHigh
    payload := storePayload bytes storeLength
    anomaly := !cmdCarriesData (classify opcodeByte) (cmdRegister opcodeByte) }

/-- `assemble`: nothing from an empty Transaction or one of more than 33 entries (R147); one CommandFrame over the whole
window from a single byte (R149); else a CommandFrame and a DataFrame that meet at the midpoint (R148). -/
def assemble (t : Transaction) (storeLength : Nat) : Option (CommandFrame × Option DataFrame) :=
  if Config.maxTxnBytes < t.bytes.length then none
  else
    match t.bytes with
    | [] => none
    | [b] => some (⟨b.mosi, b.miso, t.selectLow, t.selectHigh, cmdAnomaly b.mosi⟩, none)
    | b :: c :: rest =>
      let middle := midSample b.lastSample c.firstSample
      some (⟨b.mosi, b.miso, t.selectLow, middle, cmdAnomaly b.mosi⟩,
        some (dataFrameOf b.mosi (c :: rest) middle t.selectHigh storeLength))

/-- What assembling a Transaction adds to the ExtendedDataStore. -/
def assembledBytes (t : Transaction) : List Byte :=
  if Config.maxTxnBytes < t.bytes.length then []
  else
    match t.bytes with
    | [] => []
    | b :: rest => extendedBytes (payloadOf b.mosi rest)

/-! ### Decoding (R144, R150) -/

/-- The payload copied back, exactly `length` bytes (R150). -/
def loadPayload (f : DataFrame) (extStore : List Byte) : List Byte :=
  match f.payload with
  | .inline a b => (a ++ b).take f.length
  | .extended offset => (extStore.drop offset).take f.length

/-- The view of a command byte with the payload given (R144, R145). -/
def decodedOf (b : Byte) (payload : List Byte) : DecodedCommand :=
  let op := classify b
  let r := cmdRegister b
  { opcode := op
    register := registerOfCommand b
    pipe := pipeOfCommand b
    payload := if cmdCarriesData op r then payload else []
    isRegisterAccess := cmdIsRegister op
    isRead := cmdIsRead op
    hasPayload := cmdHasPayload op r
    hasAddress := cmdHasAddress op r
    carriesData := cmdCarriesData op r }

/-- `decode(cmd_frame, data_frame, extended_store)` (R150). -/
def decodeFrames (f : CommandFrame) (d : Option DataFrame) (extStore : List Byte) : DecodedCommand :=
  decodedOf f.opcodeByte (match d with | none => [] | some x => loadPayload x extStore)

/-- The DataFrame of the pair whose CommandFrame is entry `i` of the result store: the next entry, if it is one (R152,
"command frame always precedes its data frame"). -/
def Downstream.dataFrameAt (d : Downstream) (i : Nat) : Option DataFrame :=
  match d.frames[i + 1]? with
  | some (.data x) => some x
  | some (.command _) => none
  | none => none

/-- The DecodedCommand of the frame pair at entry `i`, "built on demand from a (CommandFrame, DataFrame,
ExtendedDataStore) triple" (R144); none where that entry is no CommandFrame. -/
def Downstream.decodedAt (d : Downstream) (i : Nat) : Option DecodedCommand :=
  match d.frames[i]? with
  | some (.command f) => some (decodeFrames f (d.dataFrameAt i) d.extStore)
  | some (.data _) => none
  | none => none

/-- The DecodedCommand of the pair being viewed (R144). -/
def Downstream.decoded (d : Downstream) : Option DecodedCommand := d.viewed.bind d.decodedAt

/-! ### The stores (R152) -/

/-- One Transaction through this stage: frames, "command frame always precedes its data frame", then `commit()`; an
empty one gives no frame, and whether it is committed is open (R147, R152, N24). -/
def acceptTransaction (t : Transaction) (d : Downstream) : Downstream :=
  match assemble t d.extStore.length with
  | none =>
    { d with assembled := d.assembled + 1, commits := if Config.commitOnEmpty then d.commits + 1 else d.commits }
  | some (f, data) =>
    { assembled := d.assembled + 1
      frames := d.frames ++ (Frame.command f :: (data.map Frame.data).toList)
      extStore := d.extStore ++ assembledBytes t
      commits := d.commits + 1
      viewed := some d.frames.length }

/-- The Transactions of OUT, in order. -/
def transactionsOf (out : List Message) : List Transaction :=
  out.filterMap fun m =>
    match m with
    | .txn t => some t
    | .mark _ _ _ => none
    | .progress _ => none

/-- The Transactions that have been handed over and not assembled. -/
def waitingTransactions (s : State) : List Transaction := (transactionsOf s.out).drop s.down.assembled

/-- An issued command byte, given the waiting Transactions: those from which nothing is assembled (the empty ones) are
passed, and the next one is assembled if this is its command byte (log entry 15). -/
def acceptCommandByte (b : Byte) : List Transaction → Downstream → Downstream
  | [], d => d
  | t :: more, d =>
    match assemble t d.extStore.length with
    | none => acceptCommandByte b more (acceptTransaction t d)
    | some (f, _) =>
      if f.opcodeByte = b then acceptTransaction t d else d

/-- The classification of a command byte, "a pure function of the command byte, independent of payload" (R145), as the
result of issuing it (log entry 6). -/
def classOf (b : Byte) : OpResult := .classified (classify b) (registerOfCommand b) (pipeOfCommand b)

/-- The effect of an issued command byte: its class is the result, and on this stage it assembles (log entry 15). -/
def issueCommand (b : Byte) (s : State) : State :=
  { s with down := acceptCommandByte b (waitingTransactions s) s.down, result := classOf b }

/-! ### The command bytes of R145 -/

/-- R_REGISTER: top 3 bits `000`. -/
def execRRegister (r : BitVec 5) (s : State) : Res State := .next (issueCommand (0b000#3 ++ r) s)

/-- W_REGISTER: top 3 bits `001`. -/
def execWRegister (r : BitVec 5) (s : State) : Res State := .next (issueCommand (0b001#3 ++ r) s)

/-- R_RX_PAYLOAD. -/
def execRRxPayload (s : State) : Res State := .next (issueCommand 0x61 s)

/-- W_TX_PAYLOAD. -/
def execWTxPayload (s : State) : Res State := .next (issueCommand 0xA0 s)

/-- FLUSH_TX. -/
def execFlushTx (s : State) : Res State := .next (issueCommand 0xE1 s)

/-- FLUSH_RX. -/
def execFlushRx (s : State) : Res State := .next (issueCommand 0xE2 s)

/-- REUSE_TX_PL. -/
def execReuseTxPl (s : State) : Res State := .next (issueCommand 0xE3 s)

/-- ACTIVATE. -/
def execActivate (s : State) : Res State := .next (issueCommand 0x50 s)

/-- R_RX_PL_WID. -/
def execRRxPlWid (s : State) : Res State := .next (issueCommand 0x60 s)

/-- W_TX_PAYLOAD_NOACK. -/
def execWTxPayloadNoack (s : State) : Res State := .next (issueCommand 0xB0 s)

/-- NOP: the device's command byte 0xFF, classified and assembled as the others. -/
def execNop (s : State) : Res State := .next (issueCommand 0xFF s)

/-- W_ACK_PAYLOAD: top 5 bits `10101`, the pipe below. -/
def execWAckPayload (pipe : BitVec 3) (s : State) : Res State := .next (issueCommand (0b10101#5 ++ pipe) s)

/-- A command byte that R145 classifies `undefined`: "must still produce a frame (never throw/abort)". -/
def undefinedCommand (b : Byte) (s : State) : Res State := .next (issueCommand b s)

end Sys2Proof.Machine
end

