-- ==== Sys2Proof/Machine/Output.lean ====
section
/-! DEFINITION. The output operations (43_outputs.md). "The block never reads `OUT`" (R130). -/

namespace Sys2Proof.Machine

/-- The three markers of one bit: clock, host-to-device, device-to-host (R132). -/
def markersOfBit (m : BitMarker) : List Message :=
  [.mark m.sample (kindOfDir m.dir) .sck, .mark m.sample (kindOfBit m.mosi) .mosi,
   .mark m.sample (kindOfBit m.miso) .miso]

/-- "24 markers per byte", in the order of arrival (R132). -/
def markersOfByte (b : SampledByte) : List Message := b.marks.toList.flatMap markersOfBit

/-- The Transaction that is handed over (R134). -/
def transactionOf (s : State) : Transaction := ⟨s.rcount, s.txn, s.selLow, s.selHigh⟩

/-- Hand the Transaction over; "a `count` above 33 cannot be produced" (R65, R134). -/
def handOver (s : State) : Res State :=
  if s.txn.length ≤ Config.maxTxnBytes then .next (s.emit (.txn (transactionOf s)))
  else .refused .countOutOfRange

/-- EMITMARK p, kind, channel (R131). -/
def execEmitmark (p : Nat) (kind : MarkKind) (channel : Channel) (s : State) : Res State :=
  requireOp none s <| .next (s.emit (.mark p kind channel))

/-- EMITTXN (R134). -/
def execEmittxn (s : State) : Res State :=
  requireOp (some .txnDone) s <| handOver s

/-- PROGRESS p (R135). -/
def execProgress (p : Nat) (s : State) : Res State :=
  requireOp none s <| .next (s.emit (.progress p))

end Sys2Proof.Machine
end

