-- ==== Sys2Proof/Machine/Sampler.lean ====
section
/-! DEFINITION. The Bit/Byte Sampler (41_sampler.md). -/

namespace Sys2Proof.Machine

/-- Take one bit at the clock's position: after SYNC, record MK[BITIDX], shift both accumulators, clear FALL (R94). -/
def recordBit (s : State) : Res State :=
  andThen (syncLines s) fun s1 =>
  andThen (readLevel .mosi s1) fun m =>
  andThen (readLevel .miso s1) fun q =>
  .next { s1 with
    marks := s1.marks.set s1.bitIdx.toNat ⟨s1.cur.sck, dirOfBit s1.fall, m, q⟩ s1.bitIdx.isLt
    mosiAcc := shiftIn s1.mosiAcc m
    misoAcc := shiftIn s1.misoAcc q
    fall := false }

/-- SAMPLEBIT: in falling-edge mode "advance clock to its next falling edge first", then take the bit (R94). `false` is
END. -/
def sampleBit (s : State) : Res (State × Bool) :=
  unlessEnd (if s.fall then advanceClock s else .next (s, true)) fun s1 =>
    andThen (recordBit s1) fun s2 => .next (s2, true)

/-- ENTRY(first): clock-polarity detection (R93). `false` is END. -/
def samplerEntry (first : Bool) (s : State) : Res (State × Bool) :=
  let s0 := { s with fall := false, mosiAcc := 0, misoAcc := 0 }
  andThen (readLevel .sck s0) fun high =>
  unlessEnd (if high && !first then advanceClock s0 else .next (s0, true)) fun s1 =>
  andThen (readLevel .sck s1) fun highNow =>
  if highNow then .next ({ s1 with fall := fallAtEntry highNow first }, true) else advanceClock s1

/-- INTERBIT: on to the next rising edge (R95). `false` is END. -/
def interBit (s : State) : Res (State × Bool) :=
  andThen (readLevel .sck s) fun high =>
  unlessEnd (if high then advanceClock s else .next (s, true)) advanceClock

/-- The bits from index `8 - left` on: SAMPLEBIT, and INTERBIT after each but the last (R92). -/
def sampleBits : Nat → State → Res (State × Bool)
  | 0, s => .next (s, true)
  | left + 1, s =>
    unlessEnd (sampleBit { s with bitIdx := BitVec.ofNat 3 (7 - left) }) fun s1 =>
      if left = 0 then .next (s1, true) else unlessEnd (interBit s1) (sampleBits left)

/-- COMPLETE: BYTE from the accumulators and the markers (R96). -/
def completeByte (s : State) : State :=
  { s with byte := ⟨s.mosiAcc, s.misoAcc, s.marks[0].sample, s.marks[7].sample, s.marks⟩ }

/-- SAMPLEBYTE(first): the four phases (R92). `true` is BYTE, `false` is END. -/
def sampleByte (first : Bool) (s : State) : Res (State × Bool) :=
  unlessEnd (samplerEntry first s) fun s1 =>
  unlessEnd (sampleBits 8 s1) fun s2 => .next (completeByte s2, true)

/-- ADVSCK (R90). -/
def execAdvsck (s : State) : Res State :=
  requireOp (some .inTxn) s <|
    andThen (advanceClock s) fun r => .next (r.1.setResult (if r.2 then .ok else .fail))

/-- SYNC (R91). -/
def execSync (s : State) : Res State :=
  requireOp (some .inTxn) s <| syncLines s

/-- SAMPLEBIT, issued by itself: the bit at BITIDX, which it does not change (R94, log entry 10). -/
def execSamplebit (s : State) : Res State :=
  requireOp (some .inTxn) s <|
    andThen (sampleBit s) fun r => .next (r.1.setResult (if r.2 then .none else .endOfTxn))

/-- SAMPLEBYTE first (R92). -/
def execSamplebyte (first : Bool) (s : State) : Res State :=
  requireOp (some .inTxn) s <|
    andThen (sampleByte first s) fun r => .next (r.1.setResult (if r.2 then .word else .endOfTxn))

end Sys2Proof.Machine
end

