-- ==== Sys2Proof/Machine/Segmenter.lean ====
section
/-! DEFINITION. The Transaction Segmenter and the control state machine (42_segmenter.md). -/

namespace Sys2Proof.Machine

/-- The next complete window after the chip-select cursor: its falling edge and the edge after that (R111). -/
def findWindow (s : State) : Option (Nat × Nat) :=
  match nextFallingEdge s.capture .csn s.cur.csn with
  | none => none
  | some a =>
    match nextEdge s.capture .csn a with
    | none => none
    | some d => some (a, d)

/-- HALT's effect: the cause, and ST = HALTED (R116). -/
def haltWith (cause : HaltCause) (s : State) : State := { s with haltCause := cause, st := .halted }

/-- HALT cause: CANCELLED or EXHAUSTED (R116). -/
def execHalt (cause : HaltCause) (s : State) : Res State :=
  requireOp (some .idle) s <|
    if cause = .none then .refused .haltCauseNotGiven else .next (haltWith cause s)

/-- FINDSEL: the pair is the result, or the run halts; no cursor moves (R111). -/
def execFindsel (s : State) : Res State :=
  requireOp (some .idle) s <|
    match findWindow s with
    | none => .next (haltWith .exhausted s)
    | some (a, d) => .next (s.setResult (.window a d))

/-- OPENTXN a, d (R112). -/
def execOpentxn (a d : Nat) (s : State) : Res State :=
  requireOp (some .idle) s <|
    andThen (seekAll a { s with selLow := a, selHigh := d }) fun s1 =>
      .next (({ s1 with txn := [], first := true }.emit (.mark a .start .csn)).setCtrl .inTxn)

/-- COLLECT: one invocation of the Sampler (R113). -/
def execCollect (s : State) : Res State :=
  requireOp (some .inTxn) s <|
    andThen (sampleByte s.first s) fun r => .next (afterSampler r.2 r.1)

/-- Retain BYTE when fewer than 33 entries are in use (R114, R162). -/
def retainByte (s : State) : State :=
  if s.txn.length < Config.maxTxnBytes then { s with txn := s.txn ++ [s.byte] } else s

/-- PUSHBYTE: the 24 markers, retained or not; FIRST cleared (R114). -/
def execPushbyte (s : State) : Res State :=
  requireOp (some .byteDone) s <|
    .next ({ retainByte (s.emitAll (markersOfByte s.byte)) with first := false }.setCtrl .inTxn)

/-- CLOSETXN: the cursors on the deassertion sample, then STOP marker, Transaction, progress; back to IDLE (R115). -/
def execClosetxn (s : State) : Res State :=
  requireOp (some .txnDone) s <|
    andThen (landOnDeassertion s) fun s1 =>
    andThen (handOver (s1.emit (.mark s1.selHigh .stop .csn))) fun s2 =>
      .next (returnToIdle (s2.emit (.progress s2.selHigh)))

/-- The top of the loop, in IDLE: the cancellation test, then FINDSEL and OPENTXN (R110, R117). -/
def topOfLoop (s : State) : Res State :=
  let (cancelled, s1) := readCancel s
  if cancelled then execHalt .cancelled s1
  else
    match findWindow s1 with
    | none => execHalt .exhausted s1
    | some (a, d) => execOpentxn a d s1

/-- One transition of ST by the block itself: one row of R118's table. -/
def transition (s : State) : Res State :=
  match s.st with
  | .idle => topOfLoop s
  | .inTxn => execCollect s
  | .byteDone => execPushbyte s
  | .txnDone => execClosetxn s
  | .halted => .fault .halted

/-- Transitions until HALTED, at most as many as the first argument says. -/
def runTransitions : Nat → State → Res State
  | 0, s => if s.st = .halted then .next s else .refused .runUnfinished
  | left + 1, s => if s.st = .halted then .next s else andThen (transition s) (runTransitions left)

/-- More transitions than any run over the capture takes: a window of n words takes 2n + 3 transitions and has more than
8n samples (log entry 8). -/
def runBound (s : State) : Nat := 4 * s.size + 4

/-- RUN: the worker loop, "never returns except by `HALT`" (R110). R110 starts it from the reset state and names no other
precondition than its own "ST = IDLE here"; that it may be issued in any IDLE state, and goes on from the cursors and the
OUT it finds there, is the model's choice: DESIGN CHOICE, log entry 25. -/
def execRun (s : State) : Res State :=
  requireOp (some .idle) s <| runTransitions (runBound s) s

end Sys2Proof.Machine
end

