-- ==== Sys2Proof/Machine/Dispatch.lean ====
section
/-! DEFINITION. One arm for each constructor of Instr. -/

namespace Sys2Proof.Machine

def exec (i : Instr) (s : State) : Host.Outcome State Fault Refusal :=
  match i with
  -- cursor primitives
  | .bitstate c => Sys2Proof.Machine.execBitstate c s
  | .nextedge c => Sys2Proof.Machine.execNextedge c s
  | .seek c p => Sys2Proof.Machine.execSeek c p s
  | .peekedge c => Sys2Proof.Machine.execPeekedge c s
  | .moreedges c => Sys2Proof.Machine.execMoreedges c s
  -- Sampler
  | .advsck => Sys2Proof.Machine.execAdvsck s
  | .sync => Sys2Proof.Machine.execSync s
  | .samplebit => Sys2Proof.Machine.execSamplebit s
  | .samplebyte first => Sys2Proof.Machine.execSamplebyte first s
  -- Segmenter
  | .findsel => Sys2Proof.Machine.execFindsel s
  | .opentxn a d => Sys2Proof.Machine.execOpentxn a d s
  | .collect => Sys2Proof.Machine.execCollect s
  | .pushbyte => Sys2Proof.Machine.execPushbyte s
  | .closetxn => Sys2Proof.Machine.execClosetxn s
  | .halt cause => Sys2Proof.Machine.execHalt cause s
  | .run => Sys2Proof.Machine.execRun s
  -- outputs
  | .emitmark p kind channel => Sys2Proof.Machine.execEmitmark p kind channel s
  | .emittxn => Sys2Proof.Machine.execEmittxn s
  | .progress p => Sys2Proof.Machine.execProgress p s
  -- command bytes
  | .rRegister r => Sys2Proof.Machine.execRRegister r s
  | .wRegister r => Sys2Proof.Machine.execWRegister r s
  | .rRxPayload => Sys2Proof.Machine.execRRxPayload s
  | .wTxPayload => Sys2Proof.Machine.execWTxPayload s
  | .flushTx => Sys2Proof.Machine.execFlushTx s
  | .flushRx => Sys2Proof.Machine.execFlushRx s
  | .reuseTxPl => Sys2Proof.Machine.execReuseTxPl s
  | .activate => Sys2Proof.Machine.execActivate s
  | .rRxPlWid => Sys2Proof.Machine.execRRxPlWid s
  | .wTxPayloadNoack => Sys2Proof.Machine.execWTxPayloadNoack s
  | .nop => Sys2Proof.Machine.execNop s
  | .wAckPayload pipe => Sys2Proof.Machine.execWAckPayload pipe s

end Sys2Proof.Machine
end

