-- ==== Sys2Proof/Machine/Issue.lean ====
section
/-! DEFINITION. From an issued word to its effect, and the load of one operation from outside (log entries 2 and 16). -/

namespace Sys2Proof.Machine

/-- The refusal of a word that is no instruction. -/
def refusalOf : DecodeError → Refusal
  | .reservedNumber => .reservedNumber
  | .reservedBits => .reservedBits
  | .unusedCode => .unusedCode
  | .undefinedCommand _ => .reservedNumber

/-- An issued word decoded and run; an undefined command byte still produces its frame (R145). -/
def runWord (w : OpWord) (s : State) : Res State :=
  match decode w with
  | .ok i => exec i s
  | .bad (.undefinedCommand b) => undefinedCommand b s
  | .bad e => .refused (refusalOf e)

/-- Two samples with an edge on every channel: the least capture on which every primitive has a result. It is put in
place only where an operation is loaded from outside and no capture is (log entry 16). -/
def stubCapture : List Instant := [⟨false, true, false, false⟩, ⟨true, false, true, true⟩]

/-- The state in which `w` is the next word to run: the issue port holds it, a capture is loaded, and ST is the control
state that the operation's rule names (log entry 16). -/
def loadWord (w : OpWord) (s : State) : State :=
  let s1 := if s.capture = [] then { s with capture := stubCapture } else s
  let s2 :=
    match decode w with
    | .ok i => (match needsState i with | some x => s1.setCtrl x | none => s1)
    | .bad _ => s1
  { s2 with issue := w :: s2.issue }

end Sys2Proof.Machine
end

