-- ==== Sys2Proof/Machine/Step.lean ====
section
/-! DEFINITION. One step: an issued operation if there is one, else one transition of the block itself. -/

namespace Sys2Proof.Machine

/-- One step (log entries 2 and 8). -/
def step (s : State) : Host.Outcome State Fault Refusal :=
  match takeIssued s with
  | some (w, s') => runWord w s'
  | none => transition s

/-- The table word `w` placed where the step takes its next operation from (log entry 16). -/
def State.withFetchWord (s : State) (nbits w : Nat) : State := loadWord (tableWord nbits w) s

end Sys2Proof.Machine
end

