-- ==== Sys2Proof/Machine/ClosedForm.lean ====
section
/-! DEFINITION. What the rules add up to, as the spec states it: the sampling points and words of a window in closed form
(41_sampler.md R98), the windows of a capture and the messages of a whole run (42_segmenter.md R119, 43_outputs.md R136).
The machine does not use this file; claims compare the machine with it. -/

namespace Sys2Proof.Machine

/-- W[c][p] = 1. -/
def highAt (w : List Instant) (c : Channel) (p : Nat) : Bool := sampleAt w c p == some true

/-- An edge: `1 <= s <= N-1` and `W[c][s] != W[c][s-1]` (R42). -/
def edgeAt (w : List Instant) (c : Channel) (p : Nat) : Bool :=
  decide (1 ≤ p) && decide (p < w.length) && (highAt w c (p - 1) != highAt w c p)

/-- A falling edge (R42). -/
def fallAt (w : List Instant) (c : Channel) (p : Nat) : Bool := edgeAt w c p && !highAt w c p

/-- `E`: "the clock edges `e` with `a < e < d`" (R98), ascending. -/
def clockEdges (w : List Instant) (a d : Nat) : List Nat :=
  (List.range d).filter fun e => decide (a < e) && edgeAt w .sck e

/-- "The sampling points of the window are all rising edges in `E` and, when `W[SCK][a] = 1`, also the first falling edge
in `E` if there is one" (R98), ascending. -/
def samplingPoints (w : List Instant) (a d : Nat) : List Nat :=
  let edges := clockEdges w a d
  let firstFall := edges.find? fun e => !highAt w .sck e
  edges.filter fun e => highAt w .sck e || (highAt w .sck a && firstFall == some e)

/-- The points at which a SAMPLEBYTE called with the clock cursor at `p` takes its bits, in a window that ends at `d`:
those of R98 from the assertion sample when `first = 1`, and the rising edges when `first = 0` (R93, R95). -/
def pointsFrom (w : List Instant) (first : Bool) (p d : Nat) : List Nat :=
  if first then samplingPoints w p d else (clockEdges w p d).filter fun e => highAt w .sck e

/-- The marker of a bit taken at sample `p` (R98). -/
def markerAt (w : List Instant) (p : Nat) : BitMarker :=
  ⟨p, if highAt w .sck p then .rising else .falling, highAt w .mosi p, highAt w .miso p⟩

/-- The word of eight sampling points: the first is the most significant bit (R44, R98). -/
def wordOfPoints (w : List Instant) (pts : List Nat) : SampledByte where
  mosi := pts.foldl (fun acc p => shiftIn acc (highAt w .mosi p)) 0
  miso := pts.foldl (fun acc p => shiftIn acc (highAt w .miso p)) 0
  firstSample := pts.getD 0 0
  lastSample := pts.getD 7 0
  marks := Vector.ofFn fun i => markerAt w (pts.getD i.val 0)

/-- The words of a window: `floor(m / 8)` groups of eight sampling points (R98). -/
def wordsOfWindow (w : List Instant) (a d : Nat) : List SampledByte :=
  let pts := samplingPoints w a d
  (List.range (pts.length / 8)).map fun k => wordOfPoints w ((pts.drop (8 * k)).take 8)

/-- The windows: "the falling edges of `CSN` that have a later edge of `CSN` in the capture", each with that edge (R119). -/
def windowsOf (w : List Instant) : List (Nat × Nat) :=
  (List.range w.length).filterMap fun a =>
    if fallAt w .csn a then (nextEdge w .csn a).map fun d => (a, d) else none

/-- The Transaction of a window: "the first `min(floor(m_j / 8), 33)` words" (R119). -/
def transactionOfWindow (w : List Instant) (a d : Nat) : Transaction :=
  let kept := (wordsOfWindow w a d).take Config.maxTxnBytes
  ⟨BitVec.ofNat 6 kept.length, kept, a, d⟩

/-- The messages of one transaction in order (R136). -/
def messagesOfWindow (w : List Instant) (a d : Nat) : List Message :=
  [.mark a .start .csn] ++ (wordsOfWindow w a d).flatMap markersOfByte ++
    [.mark d .stop .csn, .txn (transactionOfWindow w a d), .progress d]

/-- The output of a whole run without cancellation (R119, R136). -/
def messagesOfCapture (w : List Instant) : List Message :=
  (windowsOf w).flatMap fun x => messagesOfWindow w x.1 x.2

end Sys2Proof.Machine
end

