-- ==== Sys2Proof/Machine/PerSample.lean ====
section
/-! DEFINITION. The same block as a clocked circuit that sees one sample at a time (42_segmenter.md R120). "This form is
given as an aid"; the machine does not use it, and claims compare its Transactions with the machine's. -/

namespace Sys2Proof.Machine

/-- What the circuit remembers between samples (R120). -/
structure Circuit where
  inTxn : Bool
  a : Nat
  txn : List SampledByte
  cnt : Nat
  armFall : Bool
  mosiAcc : Byte
  misoAcc : Byte
  marks : Vector BitMarker 8
  handedOver : List Transaction
deriving DecidableEq, Repr

/-- "with `in_txn = 0` at reset" (R120), and nothing handed over yet. R120 gives the other registers no value at reset; zero is
the model's choice: DESIGN CHOICE, log entry 27. Each is written before it is read. -/
def Circuit.reset : Circuit := ⟨false, 0, [], 0, false, 0, 0, Vector.replicate 8 BitMarker.zero, []⟩

/-- The sampling point at sample `p`: marker, shifts, and the completed word after the eighth (R120). -/
def Circuit.takeBit (k : Circuit) (p : Nat) (now : Instant) : Circuit :=
  let marks := k.marks.setIfInBounds k.cnt ⟨p, if now.sck then .rising else .falling, now.mosi, now.miso⟩
  let mosiAcc := shiftIn k.mosiAcc now.mosi
  let misoAcc := shiftIn k.misoAcc now.miso
  if k.cnt + 1 = 8 then
    let word : SampledByte := ⟨mosiAcc, misoAcc, marks[0].sample, marks[7].sample, marks⟩
    { k with
      marks := marks
      armFall := false
      cnt := 0
      mosiAcc := 0
      misoAcc := 0
      txn := if k.txn.length < Config.maxTxnBytes then k.txn ++ [word] else k.txn }
  else { k with marks := marks, armFall := false, cnt := k.cnt + 1, mosiAcc := mosiAcc, misoAcc := misoAcc }

/-- The per-step rule of R120 for sample `p`, with the sample before it. -/
def Circuit.clock (k : Circuit) (p : Nat) (prev now : Instant) : Circuit :=
  if k.inTxn = false then
    if prev.csn && !now.csn then
      { k with inTxn := true, a := p, txn := [], cnt := 0, mosiAcc := 0, misoAcc := 0, armFall := now.sck }
    else k
  else if now.csn then
    { k with
      inTxn := false
      handedOver := k.handedOver ++ [⟨BitVec.ofNat 6 k.txn.length, k.txn, k.a, p⟩] }
  else if prev.sck != now.sck && (now.sck || k.armFall) then k.takeBit p now
  else k

/-- The samples after `prev`, the first of which has index `p`. -/
def Circuit.clockAll (k : Circuit) (p : Nat) (prev : Instant) : List Instant → Circuit
  | [] => k
  | now :: rest => (k.clock p prev now).clockAll (p + 1) now rest

/-- The Transactions that the circuit hands over on a whole capture (R120). -/
def perSampleTransactions : List Instant → List Transaction
  | [] => []
  | x :: rest => (Circuit.reset.clockAll 1 x rest).handedOver

end Sys2Proof.Machine
end

