-- ==== Sys2Proof/Safety.lean ====
section
/-! DEFINITION. The words in which claims are made: what the spec says of every completed byte, Transaction and message,
and the invariant of the block running by itself. -/

namespace Sys2Proof.Machine

/-- A run is on: a capture is loaded and the machine is not HALTED (R183, R116). -/
abbrev Running (s : State) : Prop := s.capture ≠ [] ∧ s.st ≠ .halted

/-- `e` is `next_edge(c, p)` as R42 defines it: "the least edge `s` of `c` with `s > p`". -/
abbrev IsNextEdge (w : List Instant) (c : Channel) (p e : Nat) : Prop :=
  p < e ∧ edgeAt w c e = true ∧ ∀ q, p < q → q < e → edgeAt w c q = false

/-- `next_edge(c, p)` is INF (R42). -/
abbrev NoEdgeAfter (w : List Instant) (c : Channel) (p : Nat) : Prop := ∀ q, p < q → edgeAt w c q = false

/-- `a` is "the least falling edge s of CSN with s > P[CSN]" (R111). -/
abbrev IsNextFall (w : List Instant) (p a : Nat) : Prop :=
  p < a ∧ fallAt w .csn a = true ∧ ∀ q, p < q → q < a → fallAt w .csn q = false

/-- `(a, d)` is the window that FINDSEL finds from the cursor `p` (R111). -/
abbrev IsNextWindow (w : List Instant) (p a d : Nat) : Prop := IsNextFall w p a ∧ IsNextEdge w .csn a d

/-- The preconditions common to the Sampler's operations (41_sampler.md): ST = IN_TXN, the window is inside the capture,
every cursor is in it, and no cursor is ahead of the clock's (R91). -/
structure SamplerReady (s : State) : Prop where
  inTxn : s.st = .inTxn
  windowInCapture : s.selHigh < s.size
  clockInWindow : s.cur.sck < s.selHigh
  afterLow : ∀ c, s.selLow ≤ s.cur.get c
  notAhead : ∀ c, s.cur.get c ≤ s.cur.sck

/-- What R18 says of every SampledByte: span, ascending samples, and bit `7-i` of each value in marker `i`. -/
abbrev ByteGood (b : SampledByte) : Prop :=
  b.firstSample = b.marks[0].sample ∧ b.lastSample = b.marks[7].sample ∧
  (∀ i : Fin 7, b.marks[i.castSucc].sample < b.marks[i.succ].sample) ∧
  (∀ i : Fin 8, b.mosi.getLsbD (7 - i.val) = b.marks[i].mosi) ∧
  (∀ i : Fin 8, b.miso.getLsbD (7 - i.val) = b.marks[i].miso)

/-- A byte of the window `(a, d)`: `SEL_LOW < first_sample < last_sample < SEL_HIGH` (R96). -/
abbrev ByteInWindow (a d : Nat) (b : SampledByte) : Prop :=
  ByteGood b ∧ a < b.firstSample ∧ b.firstSample < b.lastSample ∧ b.lastSample < d

/-- A Transaction as R65, R96 and R122 have it. -/
abbrev TransactionGood (t : Transaction) : Prop :=
  t.bytes.length ≤ 33 ∧ t.count.toNat = t.bytes.length ∧ t.selectLow < t.selectHigh ∧
  ∀ b ∈ t.bytes, ByteInWindow t.selectLow t.selectHigh b

/-- A message of the block: a marker's kind is on a channel it may appear on (R67), a Transaction is good. -/
abbrev MessageGood (m : Message) : Prop :=
  match m with
  | .mark _ kind channel => kind.onChannel channel = true
  | .txn t => TransactionGood t
  | .progress _ => True

/-- The invariant of the block running by itself (R13, R18, R19, R111, R122, R188; "with `first = 0` the clock is always
high at entry", R93). -/
structure BlockInv (s : State) : Prop where
  /-- Between two transitions the four cursors stand on one sample (R91, R96, R112, R188). -/
  together : s.cur = Cursors.all s.cur.sck
  /-- Cursors are in 0 .. N-1 (R11). -/
  cursorInCapture : s.cur.sck ≤ s.size - 1
  /-- HALT_CAUSE is NONE exactly when the machine is not HALTED (R12, R116). -/
  causeWhenHalted : s.haltCause = .none ↔ s.st ≠ .halted
  /-- `RCOUNT` is in 0 .. 33 (R19). -/
  bufferBound : s.txn.length ≤ 33
  /-- Every message of OUT is good. -/
  outGood : ∀ m ∈ s.out, MessageGood m
  /-- "In `IDLE` the chip-select cursor stands either on sample 0 ... or on a deassertion sample, where the line is high"
  (R111). -/
  idleCursor : s.st = .idle → s.cur.csn = 0 ∨ highAt s.capture .csn s.cur.csn = true
  /-- SEL_LOW and SEL_HIGH are a window of the capture (R13). -/
  windowOpen : s.st = .inTxn ∨ s.st = .byteDone ∨ s.st = .txnDone →
    fallAt s.capture .csn s.selLow = true ∧ IsNextEdge s.capture .csn s.selLow s.selHigh ∧ s.selHigh < s.size
  /-- `SEL_LOW <= P[c] < SEL_HIGH` in IN_TXN and BYTE_DONE (R13). -/
  cursorInWindow : s.st = .inTxn ∨ s.st = .byteDone → s.selLow ≤ s.cur.sck ∧ s.cur.sck < s.selHigh
  /-- In TXN_DONE all cursors are on the deassertion sample (R92). -/
  landed : s.st = .txnDone → s.cur.sck = s.selHigh
  /-- FIRST is 1 only before the first byte of the window is pushed, and the first call finds the cursors on the assertion
  sample (R112, R114). -/
  firstFresh : s.first = true → s.st = .inTxn ∨ s.st = .byteDone → s.txn = [] ∧ (s.st = .inTxn → s.cur.sck = s.selLow)
  /-- After a byte the clock is high at the cursor (R93, R96). -/
  clockHigh : s.st = .byteDone ∨ (s.st = .inTxn ∧ s.first = false) → highAt s.capture .sck s.cur.sck = true
  /-- Retained bytes are bytes of the window. -/
  retainedGood : s.st = .inTxn ∨ s.st = .byteDone ∨ s.st = .txnDone →
    ∀ b ∈ s.txn, ByteInWindow s.selLow s.selHigh b
  /-- The completed byte is a byte of the window and ends at the cursors (R96). -/
  byteGood : s.st = .byteDone → ByteInWindow s.selLow s.selHigh s.byte ∧ s.byte.lastSample = s.cur.sck

/-- The nineteen operations of the block (R69). -/
def isBlock : Instr → Bool
  | .bitstate _ | .nextedge _ | .seek _ _ | .peekedge _ | .moreedges _ => true
  | .advsck | .sync | .samplebit | .samplebyte _ => true
  | .findsel | .opentxn _ _ | .collect | .pushbyte | .closetxn | .halt _ | .run => true
  | .emitmark _ _ _ | .emittxn | .progress _ => true
  | .rRegister _ | .wRegister _ | .rRxPayload | .wTxPayload | .flushTx | .flushRx | .reuseTxPl => false
  | .activate | .rRxPlWid | .wTxPayloadNoack | .nop | .wAckPayload _ => false

/-- One row of R145 as an instruction: the command byte, its opcode, and the register or pipe it selects. -/
structure CommandRow where
  byte : Byte
  opcode : CmdOpcode
  register : Option (BitVec 5)
  pipe : Option (BitVec 3)
deriving DecidableEq, Repr

/-- R145's rows, with the numbers of its condition column. -/
def commandRow : Instr → Option CommandRow
  | .rRegister r => some ⟨BitVec.ofNat 8 r.toNat, .rRegister, some r, none⟩
  | .wRegister r => some ⟨BitVec.ofNat 8 (0x20 + r.toNat), .wRegister, some r, none⟩
  | .rRxPayload => some ⟨0x61, .rRxPayload, none, none⟩
  | .wTxPayload => some ⟨0xA0, .wTxPayload, none, none⟩
  | .flushTx => some ⟨0xE1, .flushTx, none, none⟩
  | .flushRx => some ⟨0xE2, .flushRx, none, none⟩
  | .reuseTxPl => some ⟨0xE3, .reuseTxPl, none, none⟩
  | .activate => some ⟨0x50, .activate, none, none⟩
  | .rRxPlWid => some ⟨0x60, .rRxPlWid, none, none⟩
  | .wTxPayloadNoack => some ⟨0xB0, .wTxPayloadNoack, none, none⟩
  | .nop => some ⟨0xFF, .nop, none, none⟩
  | .wAckPayload p => some ⟨BitVec.ofNat 8 (0xA8 + p.toNat), .wAckPayload, none, some p⟩
  | .bitstate _ | .nextedge _ | .seek _ _ | .peekedge _ | .moreedges _ => none
  | .advsck | .sync | .samplebit | .samplebyte _ => none
  | .findsel | .opentxn _ _ | .collect | .pushbyte | .closetxn | .halt _ | .run => none
  | .emitmark _ _ _ | .emittxn | .progress _ => none

/-- The same outcome, with another state of the stage after the block. -/
def replaceDown (d : Downstream) : Res State → Res State
  | .next t => .next { t with down := d }
  | .fault r => .fault r
  | .refused r => .refused r

/-- The samples of the markers on one channel, in order. -/
def markerSamples (c : Channel) (out : List Message) : List Nat :=
  out.filterMap fun m =>
    match m with
    | .mark p _ c' => if c' = c then some p else none
    | .txn _ => none
    | .progress _ => none

/-- The samples of the progress reports, in order. -/
def progressSamples (out : List Message) : List Nat :=
  out.filterMap fun m =>
    match m with
    | .progress p => some p
    | .mark _ _ _ => none
    | .txn _ => none

/-- The machine with a capture loaded and the host's draws of CANCEL_REQ, at reset (R180, R183). -/
def startOf (w : List Instant) (draws : List Bool) : State :=
  { State.reset with capture := w, cancelDraws := draws }

end Sys2Proof.Machine
end

