-- ==== Sys2Proof/Certificates/Slice0/Obligations.lean ====
section
/-! DEFINITION. The statements for the provers, from the spec's numbered rules. A statement about a register or field that
is the model's own (`result`, `issue`) says so. -/

open Sys2Proof Sys2Proof.Machine

/-! ### Cursor primitives -/

/-- R81, with R42's level "after the edge" in the capture itself. The result stands in the model's own field `result`
(log entry 6); nothing else changes. -/
def Obligations.BitstateAnswersLevelAtCursor : Prop :=
  ∀ (s : State) (c : Channel), Running s → s.cur.get c < s.size →
    exec (.bitstate c) s = .next { s with result := .level (highAt s.capture c (s.cur.get c)) }

/-- R82: the cursor goes to the next edge, which is the result; the level there is the complement of what it was; the other
three cursors and everything else stay. Without a further edge the operation is refused. -/
def Obligations.NextedgeMovesCursorToNextEdge : Prop :=
  ∀ (s : State) (c : Channel), Running s →
    (∀ e, IsNextEdge s.capture c (s.cur.get c) e →
      highAt s.capture c e = !highAt s.capture c (s.cur.get c) ∧
      ∃ t, exec (.nextedge c) s = .next t ∧ t.cur.get c = e ∧
        (∀ c', c' ≠ c → t.cur.get c' = s.cur.get c') ∧ t = { s with cur := t.cur, result := .edge e }) ∧
    (NoEdgeAfter s.capture c (s.cur.get c) → exec (.nextedge c) s = .refused .noFurtherEdge)

/-- R83: exactly `P[c] <= s <= N-1` is legal, and then P[c] is s and nothing else changes. -/
def Obligations.SeekMovesCursorForwardWithinCapture : Prop :=
  ∀ (s : State) (c : Channel) (p : Nat), Running s →
    (s.cur.get c ≤ p → p ≤ s.size - 1 →
      ∃ t, exec (.seek c p) s = .next t ∧ t.cur.get c = p ∧
        (∀ c', c' ≠ c → t.cur.get c' = s.cur.get c') ∧ t = { s with cur := t.cur }) ∧
    (p < s.cur.get c → exec (.seek c p) s = .refused .seekBackwards) ∧
    (s.cur.get c ≤ p → s.size - 1 < p → exec (.seek c p) s = .refused .seekPastEnd)

/-- R84: PEEKEDGE answers "what `NEXTEDGE(c)` would return from the same state", and no cursor moves. -/
def Obligations.PeekedgeAnswersNextEdgeWithoutMoving : Prop :=
  ∀ (s : State) (c : Channel), Running s →
    (∀ e, IsNextEdge s.capture c (s.cur.get c) e →
      exec (.peekedge c) s = .next { s with result := .edge e } ∧
      ∃ t, exec (.nextedge c) s = .next t ∧ t.result = .edge e) ∧
    (NoEdgeAfter s.capture c (s.cur.get c) → exec (.peekedge c) s = .refused .noFurtherEdge)

/-- R85. -/
def Obligations.MoreedgesTellsWhetherAnEdgeIsLeft : Prop :=
  ∀ (s : State) (c : Channel), Running s →
    ∃ b, exec (.moreedges c) s = .next { s with result := .more b } ∧
      (b = true ↔ ∃ e, s.cur.get c < e ∧ edgeAt s.capture c e = true)

/-! ### Sampler -/

/-- R90: OK moves the clock cursor to the next clock edge, where the level is the complement, and no other cursor; FAIL,
when there is no clock edge before the deassertion sample, puts all four cursors there. -/
def Obligations.AdvsckStopsAtDeassertion : Prop :=
  ∀ s : State, s.st = .inTxn → (∀ c, s.cur.get c ≤ s.selHigh) → s.selHigh ≤ s.size - 1 → 1 ≤ s.size →
    (∀ e, IsNextEdge s.capture .sck s.cur.sck e → e < s.selHigh →
      highAt s.capture .sck e = !highAt s.capture .sck s.cur.sck ∧
      exec .advsck s = .next { s with cur := { s.cur with sck := e }, result := .ok }) ∧
    ((∀ e, IsNextEdge s.capture .sck s.cur.sck e → s.selHigh ≤ e) →
      exec .advsck s =
        .next { s with cur := ⟨s.selHigh, s.selHigh, s.selHigh, s.selHigh⟩, result := .fail })

/-- R91: "After `SYNC` all four cursors are equal", at the clock's position; nothing else changes. -/
def Obligations.SyncBringsLinesToClock : Prop :=
  ∀ s : State, s.st = .inTxn → (∀ c, s.cur.get c ≤ s.cur.sck) → s.cur.sck < s.size →
    exec .sync s = .next { s with cur := ⟨s.cur.sck, s.cur.sck, s.cur.sck, s.cur.sck⟩ }

/-- R94: in falling-edge mode the clock first goes to its next edge, or the operation answers END with the cursors on the
deassertion sample; then the bit of each data line at the clock's sample is recorded with the direction and shifted in, and
FALL is cleared. BITIDX says which marker is written. -/
def Obligations.SamplebitRecordsAndShiftsOneBit : Prop :=
  ∀ (s : State), SamplerReady s →
    let taken := fun (p : Nat) (dir : EdgeDir) =>
      { s with
        cur := ⟨p, p, p, p⟩
        marks := s.marks.set s.bitIdx.toNat ⟨p, dir, highAt s.capture .mosi p, highAt s.capture .miso p⟩ s.bitIdx.isLt
        mosiAcc := BitVec.ofNat 8 (2 * s.mosiAcc.toNat + (highAt s.capture .mosi p).toNat)
        misoAcc := BitVec.ofNat 8 (2 * s.misoAcc.toNat + (highAt s.capture .miso p).toNat)
        fall := false
        result := .none }
    (s.fall = false → exec .samplebit s = .next (taken s.cur.sck .rising)) ∧
    (s.fall = true → ∀ e, IsNextEdge s.capture .sck s.cur.sck e → e < s.selHigh →
      exec .samplebit s = .next (taken e .falling)) ∧
    (s.fall = true → (∀ e, IsNextEdge s.capture .sck s.cur.sck e → s.selHigh ≤ e) →
      exec .samplebit s =
        .next { s with cur := ⟨s.selHigh, s.selHigh, s.selHigh, s.selHigh⟩, result := .endOfTxn })

/-- R92 to R97 in the closed form of R98: with eight sampling points left SAMPLEBYTE answers the word of the first eight,
and the cursors stand on the eighth; with fewer it answers END, BYTE is not written and the cursors stand on the deassertion
sample. Only cursors, FALL, BITIDX, the accumulators, MK, BYTE and the result change. -/
def Obligations.SamplebyteAnswersWordOfNextEightPoints : Prop :=
  ∀ (s : State) (first : Bool), SamplerReady s →
    let pts := pointsFrom s.capture first s.cur.sck s.selHigh
    ∃ t, exec (.samplebyte first) s = .next t ∧
      t = { s with
            cur := t.cur, fall := t.fall, bitIdx := t.bitIdx, mosiAcc := t.mosiAcc, misoAcc := t.misoAcc
            marks := t.marks, byte := t.byte, result := t.result } ∧
      (8 ≤ pts.length →
        t.result = .word ∧ t.byte = wordOfPoints s.capture (pts.take 8) ∧ t.cur = Cursors.all (pts.getD 7 0) ∧
        t.fall = false ∧ t.mosiAcc = t.byte.mosi ∧ t.misoAcc = t.byte.miso ∧ t.marks = t.byte.marks) ∧
      (pts.length < 8 → t.result = .endOfTxn ∧ t.byte = s.byte ∧ t.cur = Cursors.all s.selHigh)

/-- R96 and R18: whenever SAMPLEBYTE answers a word, the span is [first-bit-sample, last-bit-sample], the markers ascend,
bit `7-i` of each value is the bit of marker `i`, the byte is inside the window, and the clock is high at the cursors. -/
def Obligations.CompletedByteIsBoundedByItsMarkers : Prop :=
  ∀ (s t : State) (first : Bool), SamplerReady s → exec (.samplebyte first) s = .next t → t.result = .word →
    ByteInWindow s.selLow s.selHigh t.byte ∧ t.cur = Cursors.all t.byte.lastSample ∧
      highAt s.capture .sck t.byte.lastSample = true

/-- R99: the data lines never steer control. On two captures with the same clock and chip-select lines a SAMPLEBYTE ends the
same way, with the same cursors and the same samples in its markers. -/
def Obligations.DataLinesNeverSteerTheSampler : Prop :=
  ∀ (s : State) (w : List Instant) (first : Bool), SamplerReady s → w.length = s.capture.length →
    (∀ p, highAt w .sck p = highAt s.capture .sck p) → (∀ p, highAt w .csn p = highAt s.capture .csn p) →
    ∃ t u, exec (.samplebyte first) s = .next t ∧ exec (.samplebyte first) { s with capture := w } = .next u ∧
      t.cur = u.cur ∧ t.result = u.result ∧ t.fall = u.fall ∧ t.bitIdx = u.bitIdx ∧
      t.marks.toList.map (fun m => (m.sample, m.dir)) = u.marks.toList.map (fun m => (m.sample, m.dir))

/-! ### Segmenter -/

/-- R111: the pair of the next complete window after P[CSN], no cursor moved; or the run halts as EXHAUSTED. -/
def Obligations.FindselAnswersNextWindowOrHalts : Prop :=
  ∀ s : State, Running s → s.st = .idle →
    (∀ a d, IsNextWindow s.capture s.cur.csn a d → exec .findsel s = .next { s with result := .window a d }) ∧
    ((¬∃ a d, IsNextWindow s.capture s.cur.csn a d) →
      exec .findsel s = .next { s with st := .halted, haltCause := .exhausted })

/-- R112, with RCOUNT = 0 as the empty buffer (log entry 7). R112 gives OPENTXN the pair of FINDSEL; that it latches any
other pair as well, whose SEEKs are legal, is the model's reading (log entry 10). -/
def Obligations.OpentxnStartsTransactionAtAssertion : Prop :=
  ∀ (s : State) (a d : Nat), s.st = .idle → (∀ c, s.cur.get c ≤ a) → a < s.size →
    exec (.opentxn a d) s =
      .next { s with
        selLow := a, selHigh := d, cur := ⟨a, a, a, a⟩, txn := [], first := true
        out := s.out ++ [.mark a .start .csn], st := .inTxn }

/-- R113: COLLECT is one SAMPLEBYTE with FIRST as its operand; ST becomes BYTE_DONE on a byte and TXN_DONE on END. -/
def Obligations.CollectIsOneSamplerCall : Prop :=
  ∀ s : State, SamplerReady s →
    ∃ t u, exec (.samplebyte s.first) s = .next t ∧ exec .collect s = .next u ∧
      (t.result = .word ∨ t.result = .endOfTxn) ∧
      u = { t with result := s.result, st := if t.result = .word then .byteDone else .txnDone }

/-- R114 with R132: the 24 markers, retained or not; the byte stored when fewer than 33 are in use; FIRST cleared; IN_TXN. -/
def Obligations.PushbyteEmitsMarkersAndRetainsUpTo33 : Prop :=
  ∀ s : State, Running s → s.st = .byteDone →
    exec .pushbyte s =
      .next { s with
        out := s.out ++ (List.finRange 8).flatMap fun i =>
          [.mark s.byte.marks[i].sample (if s.byte.marks[i].dir = .rising then .up else .down) .sck,
           .mark s.byte.marks[i].sample (if s.byte.marks[i].mosi = true then .one else .zero) .mosi,
           .mark s.byte.marks[i].sample (if s.byte.marks[i].miso = true then .one else .zero) .miso]
        txn := if s.txn.length < 33 then s.txn ++ [s.byte] else s.txn
        first := false
        st := .inTxn }

/-- R115 with R133 to R135: cursors on the deassertion sample, then STOP marker, Transaction (whatever its length) and
progress report, and IDLE. -/
def Obligations.ClosetxnHandsOverAndReturnsToIdle : Prop :=
  ∀ s : State, s.st = .txnDone → (∀ c, s.cur.get c ≤ s.selHigh) → s.selHigh < s.size → s.txn.length ≤ 33 →
    exec .closetxn s =
      .next { s with
        cur := ⟨s.selHigh, s.selHigh, s.selHigh, s.selHigh⟩
        out := s.out ++
          [.mark s.selHigh .stop .csn, .txn ⟨BitVec.ofNat 6 s.txn.length, s.txn, s.selLow, s.selHigh⟩,
           .progress s.selHigh]
        st := .idle }

/-- R116: the cause and HALTED, nothing else, nothing emitted; and in HALTED no block operation is defined. That the cause
NONE is refused is the model's reading (log entry 18), and so is the fault by which HALTED is stuck (log entry 9,
93_implementation_defined.md U5). -/
def Obligations.HaltIsFinal : Prop :=
  (∀ (s : State) (cause : HaltCause), Running s → s.st = .idle → cause ≠ .none →
    exec (.halt cause) s = .next { s with haltCause := cause, st := .halted }) ∧
  (∀ s : State, Running s → s.st = .idle → exec (.halt .none) s = .refused .haltCauseNotGiven) ∧
  (∀ (s : State) (i : Instr), s.capture ≠ [] → s.st = .halted → isBlock i = true → exec i s = .fault .halted) ∧
  (∀ s : State, s.issue = [] → s.st = .halted → step s = .fault .halted)

/-- R110: from IDLE, with no cursor ahead of the chip-select cursor, RUN halts; it "never returns except by `HALT`".
That it may be issued in an IDLE state other than reset, and is one step, is the model's choice (log entries 25 and 8). -/
def Obligations.RunAlwaysHalts : Prop :=
  ∀ s : State, s.st = .idle → (∀ c, s.cur.get c ≤ s.cur.csn) → s.cur.csn < s.size →
    ∃ t, exec .run s = .next t ∧ t.st = .halted ∧ (t.haltCause = .cancelled ∨ t.haltCause = .exhausted)

/-- R117: in IDLE a CANCEL_REQ that reads 1 halts the run before any search, and the request is read in no other state. The
reads are the model's list of draws (log entry 5). -/
def Obligations.CancellationIsReadAtTheTopOnly : Prop :=
  (∀ (s : State) (rest : List Bool), Running s → s.issue = [] → s.st = .idle → s.cancelDraws = true :: rest →
    step s = .next { s with cancelDraws := rest, st := .halted, haltCause := .cancelled }) ∧
  (∀ s t : State, s.issue = [] → step s = .next t →
    t.cancelDraws = if s.st = .idle then s.cancelDraws.tail else s.cancelDraws) ∧
  (∀ (s t : State) (i : Instr), i ≠ .run → exec i s = .next t → t.cancelDraws = s.cancelDraws)

/-- R118: the transition table of ST. At reset it is IDLE; in HALTED the block has no transition; and every transition of
the block by itself is one row, with that row's outputs. That one step is one row is the model's choice (log entry 8), and
so is CANCEL_REQ as the head of a list that reads 0 after its end (log entry 5). -/
def Obligations.ControlFollowsTransitionTable : Prop :=
  State.reset.st = .idle ∧ (∀ s : State, s.issue = [] → s.st = .halted → step s = .fault .halted) ∧
  ∀ s t : State, s.issue = [] → step s = .next t →
    (s.st = .idle ∧ s.cancelDraws.headD false = true ∧ t.st = .halted ∧ t.haltCause = .cancelled ∧ t.out = s.out) ∨
    (s.st = .idle ∧ s.cancelDraws.headD false = false ∧ (¬∃ a d, IsNextWindow s.capture s.cur.csn a d) ∧
      t.st = .halted ∧ t.haltCause = .exhausted ∧ t.out = s.out) ∨
    (s.st = .idle ∧ s.cancelDraws.headD false = false ∧ t.st = .inTxn ∧
      ∃ a d, IsNextWindow s.capture s.cur.csn a d ∧ t.selLow = a ∧ t.selHigh = d ∧
        t.out = s.out ++ [.mark a .start .csn]) ∨
    (s.st = .inTxn ∧ t.out = s.out ∧ ∃ u, exec (.samplebyte s.first) s = .next u ∧
      (u.result = .word ∧ t.st = .byteDone ∨ u.result = .endOfTxn ∧ t.st = .txnDone)) ∨
    (s.st = .byteDone ∧ t.st = .inTxn ∧ t.out = s.out ++ markersOfByte s.byte ∧
      (markersOfByte s.byte).length = 24) ∨
    (s.st = .txnDone ∧ t.st = .idle ∧
      t.out = s.out ++ [.mark s.selHigh .stop .csn, .txn ⟨s.rcount, s.txn, s.selLow, s.selHigh⟩, .progress s.selHigh])

/-! ### Outputs -/

/-- R131: "Writes `OUT` only"; and the markers that the block itself appends have a kind that R67 lets appear on their
channel. That an issued EMITMARK takes every kind on every channel is the model's reading (log entry 10). -/
def Obligations.EmitmarkAppendsOneMarker : Prop :=
  (∀ (s : State) (p : Nat) (kind : MarkKind) (channel : Channel), Running s →
    exec (.emitmark p kind channel) s = .next { s with out := s.out ++ [.mark p kind channel] }) ∧
  ∀ (s t : State) (p : Nat) (kind : MarkKind) (channel : Channel), s.issue = [] → step s = .next t →
    .mark p kind channel ∈ t.out → .mark p kind channel ∈ s.out ∨ kind.onChannel channel = true

/-- R134: the Transaction of RCOUNT entries with the two window samples; "`count = 0` included". -/
def Obligations.EmittxnAppendsTheTransaction : Prop :=
  ∀ s : State, Running s → s.st = .txnDone → s.txn.length ≤ 33 →
    exec .emittxn s =
      .next { s with out := s.out ++ [.txn ⟨BitVec.ofNat 6 s.txn.length, s.txn, s.selLow, s.selHigh⟩] }

/-- R135's operation. -/
def Obligations.ProgressAppendsOneReport : Prop :=
  ∀ (s : State) (p : Nat), Running s → exec (.progress p) s = .next { s with out := s.out ++ [.progress p] }

/-! ### Where the block's operations stop -/

/-- 93_implementation_defined.md U4: an operation in a control state other than the one its rule names is refused. -/
def Obligations.OperationsAreRefusedInOtherControlStates : Prop :=
  ∀ (s : State) (i : Instr) (x : CtrlState), needsState i = some x → Running s → s.st ≠ x →
    exec i s = .refused .wrongControlState

/-- U8: without a capture no block operation runs, and the block itself does not start (R183). -/
def Obligations.NothingRunsWithoutCapture : Prop :=
  (∀ (s : State) (i : Instr), isBlock i = true → s.capture = [] → exec i s = .refused .noCapture) ∧
  step State.reset = .refused .noCapture

/-! ### Frames -/

/-- What the operations of the Sampler and the cursor primitives leave unchanged (R80, R92): inputs, control state, window
registers, FIRST, the transaction buffer, OUT, the stage after the block, and BYTE for all but SAMPLEBYTE. -/
def Obligations.SamplerAndPrimitivesFrame : Prop :=
  ∀ (s t : State) (i : Instr), exec i s = .next t →
    (∃ c p first, i = .bitstate c ∨ i = .nextedge c ∨ i = .seek c p ∨ i = .peekedge c ∨ i = .moreedges c ∨
      i = .advsck ∨ i = .sync ∨ i = .samplebit ∨ i = .samplebyte first) →
    t.capture = s.capture ∧ t.cancelDraws = s.cancelDraws ∧ t.st = s.st ∧ t.haltCause = s.haltCause ∧
    t.selLow = s.selLow ∧ t.selHigh = s.selHigh ∧ t.first = s.first ∧ t.txn = s.txn ∧ t.out = s.out ∧
    t.down = s.down ∧ t.issue = s.issue ∧
    ((∀ first, i ≠ .samplebyte first) → t.byte = s.byte)

/-- What COLLECT and RUN, the operations that call the Sampler, leave unchanged: the capture, the stage after the block and
the issue port; COLLECT also OUT, the buffer, FIRST, HALT_CAUSE, the window registers and the cancellation draws (R113). -/
def Obligations.CollectAndRunFrame : Prop :=
  (∀ s t : State, exec .collect s = .next t →
    t = { s with
          cur := t.cur, st := t.st, fall := t.fall, bitIdx := t.bitIdx, mosiAcc := t.mosiAcc, misoAcc := t.misoAcc
          marks := t.marks, byte := t.byte }) ∧
  (∀ s t : State, exec .run s = .next t →
    t.capture = s.capture ∧ t.down = s.down ∧ t.issue = s.issue ∧ t.result = s.result)

/-! ### The whole machine -/

/-- R40 and R43: no step writes the capture. -/
def Obligations.StepNeverWritesTheCapture : Prop :=
  ∀ s t : State, step s = .next t → t.capture = s.capture

/-- R186: no step moves a cursor to a smaller index, and NEXTEDGE moves its cursor strictly forward. -/
def Obligations.CursorsOnlyMoveForward : Prop :=
  (∀ s t : State, step s = .next t → ∀ c, s.cur.get c ≤ t.cur.get c) ∧
  ∀ (s t : State) (c : Channel), exec (.nextedge c) s = .next t → s.cur.get c < t.cur.get c

/-- R130: OUT is only appended to. -/
def Obligations.OutputIsAppendOnly : Prop :=
  ∀ s t : State, step s = .next t → s.out <+: t.out

/-- R19, R122: RCOUNT never passes 33. -/
def Obligations.StepKeepsBufferBound : Prop :=
  ∀ s t : State, s.txn.length ≤ 33 → step s = .next t → t.txn.length ≤ 33

/-- R140: no operation of the block reads or writes anything of the stage after it. -/
def Obligations.BlockIgnoresTheStageAfterIt : Prop :=
  ∀ (s : State) (i : Instr) (d : Downstream), isBlock i = true →
    exec i { s with down := d } = replaceDown d (exec i s)

/-- R180: what the spec gives at reset. -/
def Obligations.ResetIsIdleAtSampleZero : Prop :=
  State.reset.st = .idle ∧ State.reset.haltCause = .none ∧ (∀ c, State.reset.cur.get c = 0) ∧ State.reset.out = []

/-- The invariant holds at reset, and at the start of a run over any capture. -/
def Obligations.BlockInvHoldsAtReset : Prop :=
  BlockInv State.reset ∧ ∀ (w : List Instant) (draws : List Bool), BlockInv (startOf w draws)

/-- Every step of the block by itself keeps the invariant (R13, R18, R19, R96, R111, R188). -/
def Obligations.StepKeepsBlockInv : Prop :=
  ∀ s t : State, BlockInv s → s.issue = [] → step s = .next t → BlockInv t

/-- R99, R168: with the invariant, the block by itself never faults and is never refused before HALTED. -/
def Obligations.BlockNeverStopsBeforeHalted : Prop :=
  ∀ s : State, BlockInv s → Running s → s.issue = [] → ∃ t, step s = .next t

/-- RUN is the block's own transitions repeated to the end (R110, R118; log entry 8). -/
def Obligations.RunIsRepeatedSteps : Prop :=
  ∀ s t : State, s.issue = [] → exec .run s = .next t →
    t.st = .halted ∧ ∃ k, Host.Core.run Sys2Proof.core k s = .next t

/-- R119 with R136: a whole run without cancellation emits, window by window, the messages of the closed form, and halts as
EXHAUSTED; the windows never overlap. -/
def Obligations.RunEmitsTheClosedForm : Prop :=
  ∀ (w : List Instant) (draws : List Bool), w ≠ [] → (∀ b ∈ draws, b = false) →
    (∃ t, exec .run (startOf w draws) = .next t ∧ t.out = messagesOfCapture w ∧ t.st = .halted ∧
      t.haltCause = .exhausted) ∧
    (windowsOf w).Pairwise (fun x y => x.2 < y.1)

/-- R117: whatever the host's draws, the output is the messages of the first windows only, cut where the first 1 is read,
"ending on a transaction boundary". -/
def Obligations.CancelledRunEmitsAPrefix : Prop :=
  ∀ (w : List Instant) (draws : List Bool), w ≠ [] →
    let k := draws.findIdx (fun b => b)
    let cancelled := decide (k < draws.length) && decide (k ≤ (windowsOf w).length)
    ∃ t, exec .run (startOf w draws) = .next t ∧ t.st = .halted ∧
      t.haltCause = (if cancelled then .cancelled else .exhausted) ∧
      t.out = ((windowsOf w).take (if cancelled then k else (windowsOf w).length)).flatMap
        fun x => messagesOfWindow w x.1 x.2

/-- R120: without cancellation, the circuit that sees one sample at a time hands over the same Transactions. The run is
uncancelled because its list of draws is empty and CANCEL_REQ reads 0 after the list's end, which is the model's choice (log
entry 5); RUN as one step is the model's choice too (log entry 8), and so are the zeros in which the circuit's registers other
than in_txn start (log entry 27). -/
def Obligations.PerSampleCircuitHandsOverTheSameTransactions : Prop :=
  ∀ w : List Instant, w ≠ [] →
    ∃ t, exec .run (startOf w []) = .next t ∧ transactionsOf t.out = perSampleTransactions w

/-- R137, R135: over a whole run the markers of each channel, and the progress reports, are strictly increasing. -/
def Obligations.MarkersAndProgressIncrease : Prop :=
  ∀ (w : List Instant) (draws : List Bool), w ≠ [] →
    ∃ t, exec .run (startOf w draws) = .next t ∧
      (∀ c, (markerSamples c t.out).Pairwise (· < ·)) ∧ (progressSamples t.out).Pairwise (· < ·) ∧
      markerSamples .sck t.out = markerSamples .mosi t.out ∧ markerSamples .sck t.out = markerSamples .miso t.out

/-- R93, R94, R98: in the Transactions of a run a marker is FALLING exactly when it is the first of the first byte and the
clock was high at the assertion sample. -/
def Obligations.FallingMarkerOnlyFirstAfterHighClock : Prop :=
  ∀ (w : List Instant) (draws : List Bool), w ≠ [] →
    ∃ t, exec .run (startOf w draws) = .next t ∧
      ∀ x ∈ transactionsOf t.out, ∀ (k : Nat) (b : SampledByte), x.bytes[k]? = some b → ∀ i : Fin 8,
        (b.marks[i].dir = .falling ↔ k = 0 ∧ i.val = 0 ∧ highAt w .sck x.selectLow = true)

/-- R98, R119: OUT depends on the data lines only strictly inside the windows and on the clock only from the assertion sample
to before the deassertion sample. -/
def Obligations.OutputIgnoresSamplesOutsideWindows : Prop :=
  ∀ (w v : List Instant) (draws : List Bool), w ≠ [] → v.length = w.length →
    (∀ p, highAt v .csn p = highAt w .csn p) →
    (∀ x ∈ windowsOf w, ∀ p, x.1 ≤ p → p < x.2 → highAt v .sck p = highAt w .sck p) →
    (∀ x ∈ windowsOf w, ∀ p, x.1 < p → p < x.2 →
      highAt v .mosi p = highAt w .mosi p ∧ highAt v .miso p = highAt w .miso p) →
    ∃ t u, exec .run (startOf w draws) = .next t ∧ exec .run (startOf v draws) = .next u ∧ t.out = u.out

/-! ### Words -/

/-- Decoding an encoded instruction gives it back, for every instruction whose operands fit (R69, R145; the layout is the
model's, log entry 2). -/
def Obligations.DecodeEncodeGivesInstructionBack : Prop :=
  ∀ i : Instr, i.fits = true → decode (encode i) = .ok i

/-- A word that decodes is the encoding of what it decodes to: one meaning for each word, no bit ignored. -/
def Obligations.EncodeDecodeGivesWordBack : Prop :=
  ∀ (w : OpWord) (i : Instr), decode w = .ok i → encode i = w ∧ i.fits = true

/-- R70: a number that R69 does not list names no operation. The refusal of the step is by name. -/
def Obligations.ReservedNumbersNameNoOperation : Prop :=
  ∀ (s : State) (w : OpWord) (rest : List OpWord), s.issue = w :: rest → fieldSmall w ≠ commandSpace →
    fieldNumber w ∉ [1, 2, 3, 4, 5, 8, 9, 10, 11, 16, 17, 18, 19, 20, 21, 22, 24, 25, 26] →
    step s = .refused .reservedNumber

/-- Words written out from R69's numbers and R145's bytes, with the operand codes of R61, R66 and R67. -/
def Obligations.WordsOfTheTableDecode : Prop :=
  decode 0b00001 = .ok (.bitstate .sck) ∧
  decode 0b01_00010 = .bad .reservedNumber ∧
  decode 0b00000001_00000010 = .ok (.nextedge .csn) ∧
  decode 0b1001_00000010_00000011 = .ok (.seek .mosi 9) ∧
  decode 0b00000001_00001011 = .ok (.samplebyte true) ∧
  decode 0b00000010_00010101 = .ok (.halt .exhausted) ∧
  decode 0b111_00010001_00011000 = .ok (.emitmark 7 .start .csn) ∧
  decode 0b10000000_00100000 = .ok (.wRegister 0) ∧
  decode 0b10000000_10101101 = .ok (.wAckPayload 5) ∧
  decode 0b10000000_01000000 = .bad (.undefinedCommand 0x40)

/-- A step runs the instruction that the oldest issued word decodes to, on the state without that word; with no word issued
it is the block's own transition (log entries 2 and 8). A table word placed from outside is run by the very next step, on a
state that differs at most in ST and, where none was loaded, in the capture (log entry 16). -/
def Obligations.StepRunsTheIssuedInstruction : Prop :=
  (∀ (s : State) (w : OpWord) (rest : List OpWord) (i : Instr), s.issue = w :: rest → decode w = .ok i →
    step s = exec i { s with issue := rest }) ∧
  (∀ s : State, s.issue = [] → step s = transition s) ∧
  (∀ (s : State) (nbits w : Nat) (i : Instr), decodeTableWord nbits w = some i →
    ∃ s', step (s.withFetchWord nbits w) = exec i s' ∧ s' = { s with capture := s'.capture, st := s'.st } ∧
      (s.capture ≠ [] → s'.capture = s.capture))

/-! ### The stage after the block -/

/-- R145: the classification of every command byte, by the conditions of the table's first column; register and pipe are its
low five and low three bits, `0x1F` is the undefined register; no two rows of the decoder's table overlap; and whatever the
byte, a Transaction that begins with it gives a frame. -/
def Obligations.ClassificationFollowsTheTable : Prop :=
  (∀ b : Byte, (cmdRegister b).toNat = b.toNat % 32 ∧ (cmdPipe b).toNat = b.toNat % 8) ∧
  (∀ b : Byte, (cmdRows.filter fun r => r.hits b).length ≤ 1) ∧
  (∀ r : BitVec 5, registerName r = if r.toNat = 31 then .undefinedRegister else .defined r) ∧
  (∀ (t : Transaction) (b : SampledByte) (rest : List SampledByte) (n : Nat), t.bytes = b :: rest → rest.length ≤ 32 →
    ∃ f d, assemble t n = some (f, d) ∧ f.opcodeByte = b.mosi) ∧
  ∀ b : Byte, classify b =
    if b.toNat / 32 = 0 then .rRegister
    else if b.toNat / 32 = 1 then .wRegister
    else if b.toNat = 0x61 then .rRxPayload
    else if b.toNat = 0xA0 then .wTxPayload
    else if b.toNat = 0xE1 then .flushTx
    else if b.toNat = 0xE2 then .flushRx
    else if b.toNat = 0xE3 then .reuseTxPl
    else if b.toNat = 0x50 then .activate
    else if b.toNat = 0x60 then .rRxPlWid
    else if b.toNat = 0xB0 then .wTxPayloadNoack
    else if b.toNat = 0xFF then .nop
    else if b.toNat / 8 = 0x15 then .wAckPayload
    else .undefined

/-- R146: the four opcodes without data, the four with a data payload, and the register opcodes' address range, which is
contiguous, is seven registers and holds neither `CONFIG` (register 0) nor `0x1F`; where there is an address the opcode
carries data. The seven and the bounds are DEDUCED, the place of the range is a free value (log entry 12). -/
def Obligations.PayloadPresenceFollowsTheTwoLists : Prop :=
  (∀ op ∈ [CmdOpcode.flushTx, .flushRx, .reuseTxPl, .nop], ∀ r,
    cmdCarriesData op r = false ∧ cmdHasPayload op r = false ∧ cmdHasAddress op r = false) ∧
  (∀ op ∈ [CmdOpcode.wTxPayload, .rRxPayload, .wAckPayload, .wTxPayloadNoack], ∀ r,
    cmdCarriesData op r = true ∧ cmdHasPayload op r = true ∧ cmdHasAddress op r = false) ∧
  (∃ first, 1 ≤ first ∧ first + 6 ≤ 30 ∧ ∀ op r, cmdHasAddress op r = true ↔
    (op = .rRegister ∨ op = .wRegister) ∧ first ≤ r.toNat ∧ r.toNat ≤ first + 6) ∧
  ∀ op r, cmdHasAddress op r = true → cmdCarriesData op r = true

/-- Each command byte, issued in any state, completes: its result is its opcode, its register (`0x1F` is the undefined
register) and its pipe, and nothing of the block changes (R140, R145; what an issued command byte does, and the field that
holds its result, are the model's choice, log entries 15 and 6). -/
def Obligations.CommandBytesAreClassifiedInEveryState : Prop :=
  ∀ (s : State) (i : Instr) (row : CommandRow), commandRow i = some row →
    ∃ d, exec i s = .next { s with
      down := d
      result := .classified row.opcode
        (row.register.map fun r => if r = 0x1F then .undefinedRegister else .defined r) row.pipe }

/-- R147 to R149 and R152: a command byte whose Transaction is the next to assemble appends its CommandFrame and, when there
is more than one byte, its DataFrame from the midpoint to the end of the window, commits once, and stores a payload of more
than 16 bytes at the end of the ExtendedDataStore. An undefined register is flagged, and so are bytes after an opcode that
carries none (R146, R154). The new pair is the one in view, and its decoding has the payload where the opcode carries data
(R144, R150). What an issued byte does, what is in view and that the flag of the data follows carries-data are the model's
choices (log entries 15, 20, 19 and 26); the line, that flag and the rounding of the midpoint are free values where the spec
leaves them open (log entries 12 and 13). -/
def Obligations.CommandAssemblesItsTransaction : Prop :=
  ∀ (s : State) (i : Instr) (row : CommandRow) (t : Transaction) (more : List Transaction) (b : SampledByte)
    (rest : List SampledByte),
    commandRow i = some row → waitingTransactions s = t :: more → t.bytes = b :: rest → rest.length ≤ 32 →
    b.mosi = row.byte →
    ∃ u, exec i s = .next u ∧ u.down.commits = s.down.commits + 1 ∧ u.down.assembled = s.down.assembled + 1 ∧
      (∃ x, u.down.decoded = some x ∧ x.opcode = row.opcode ∧ x.pipe = row.pipe ∧
        x.register = row.register.map (fun r => if r = 0x1F then .undefinedRegister else .defined r) ∧
        (cmdCarriesData row.opcode (cmdRegister row.byte) = true →
          x.payload = rest.map (byteOnLine (lineOfCommand row.opcode)))) ∧
      (rest = [] →
        u.down.extStore = s.down.extStore ∧
        u.down.frames = s.down.frames ++
          [.command ⟨b.mosi, b.miso, t.selectLow, t.selectHigh, decide (row.register = some 0x1F)⟩]) ∧
      (∀ c more', rest = c :: more' →
        ∃ middle line payload anomaly,
          (row.opcode = .rRxPayload → line = .deviceToHost) ∧ (row.opcode = .wRegister → line = .hostToDevice) ∧
          (row.opcode ∈ [.flushTx, .flushRx, .reuseTxPl, .nop] → anomaly = true) ∧
          (row.opcode ∈ [.wTxPayload, .rRxPayload, .wAckPayload, .wTxPayloadNoack] → anomaly = false) ∧
          2 * middle ≤ b.lastSample + c.firstSample + 1 ∧ b.lastSample + c.firstSample ≤ 2 * middle + 1 ∧
          u.down.frames = s.down.frames ++
            [.command ⟨b.mosi, b.miso, t.selectLow, middle, decide (row.register = some 0x1F)⟩,
             .data ⟨rest.length, line, middle, t.selectHigh, payload, anomaly⟩] ∧
          (rest.length ≤ 16 → u.down.extStore = s.down.extStore ∧
            payload = .inline ((rest.map (byteOnLine line)).take 8) ((rest.map (byteOnLine line)).drop 8)) ∧
          (16 < rest.length → payload = .extended s.down.extStore.length ∧
            u.down.extStore = s.down.extStore ++ rest.map (byteOnLine line)))

/-- R150 and the source's round trip: for an opcode that carries data, decoding the assembled frames gives back exactly the
payload bytes of 0 to 32, inline or extended, whatever is stored before and after them. -/
def Obligations.DecodingGivesThePayloadBack : Prop :=
  ∀ (t : Transaction) (b : SampledByte) (rest : List SampledByte) (store later : List Byte),
    t.bytes = b :: rest → rest.length ≤ 32 → cmdCarriesData (classify b.mosi) (cmdRegister b.mosi) = true →
    ∃ f d, assemble t store.length = some (f, d) ∧
      (decodeFrames f d (store ++ assembledBytes t ++ later)).payload =
        rest.map (byteOnLine (lineOfCommand (classify b.mosi)))

/-- R142, R143, R152: no step removes or changes a frame or a stored byte. -/
def Obligations.DownstreamStoresAreAppendOnly : Prop :=
  ∀ s t : State, step s = .next t →
    s.down.frames <+: t.down.frames ∧ s.down.extStore <+: t.down.extStore ∧ s.down.commits ≤ t.down.commits

/-- R144: a DecodedCommand is a function of its frame pair and the store, "with no independent identity": no step changes what
the pair at an entry of the result store decodes to, where an extended payload lies in the store. -/
def Obligations.DecodedPairNeverChanges : Prop :=
  ∀ (s t : State) (i : Nat) (x : DecodedCommand), step s = .next t → s.down.decodedAt i = some x →
    (∀ f offset, s.down.dataFrameAt i = some f → f.payload = .extended offset →
      offset + f.length ≤ s.down.extStore.length) →
    t.down.decodedAt i = some x

/-- R145: an `undefined` command byte "must still produce a frame (never throw/abort)": issued, its result is the class
`undefined`, the step goes on, and a waiting Transaction that begins with it gives a frame (log entries 2, 6 and 15). -/
def Obligations.UndefinedCommandByteStillGoesOn : Prop :=
  ∀ (s : State) (b : Byte) (rest : List OpWord), classify b = .undefined → s.issue = packCommand b :: rest →
    ∃ d, step s = .next { s with issue := rest, down := d, result := .classified .undefined none none } ∧
      ∀ (t : Transaction) (more : List Transaction) (c : SampledByte) (bytes : List SampledByte),
        waitingTransactions s = t :: more → t.bytes = c :: bytes → bytes.length ≤ 32 → c.mosi = b →
        s.down.frames.length < d.frames.length
end

