-- ==== Sys2Proof/Laws/Decode.lean ====
section
/-! SUPPORT. The fields of a packed word are the ones it was packed from, and the numeric codes read back. -/

namespace Sys2Proof

theorem packWord_toNat {n k a b : Nat} (hn : n < 256) (hk : k < 256) (ha : a < 2 ^ 64) (hb : b < 2 ^ 64) :
    (packWord n k a b).toNat = n + k * 256 + a * 2 ^ 16 + b * 2 ^ 80 := by
  unfold packWord
  rw [BitVec.toNat_ofNat, Nat.mod_eq_of_lt]
  norm_num at *
  omega

theorem fieldNumber_packWord {n k a b : Nat} (hn : n < 256) (hk : k < 256) (ha : a < 2 ^ 64) (hb : b < 2 ^ 64) :
    fieldNumber (packWord n k a b) = n := by
  unfold fieldNumber
  rw [packWord_toNat hn hk ha hb]
  norm_num at *
  omega

theorem fieldSmall_packWord {n k a b : Nat} (hn : n < 256) (hk : k < 256) (ha : a < 2 ^ 64) (hb : b < 2 ^ 64) :
    fieldSmall (packWord n k a b) = k := by
  unfold fieldSmall
  rw [packWord_toNat hn hk ha hb]
  norm_num at *
  omega

theorem fieldSampleA_packWord {n k a b : Nat} (hn : n < 256) (hk : k < 256) (ha : a < 2 ^ 64) (hb : b < 2 ^ 64) :
    fieldSampleA (packWord n k a b) = a := by
  unfold fieldSampleA
  rw [packWord_toNat hn hk ha hb]
  norm_num at *
  omega

theorem fieldSampleB_packWord {n k a b : Nat} (hn : n < 256) (hk : k < 256) (ha : a < 2 ^ 64) (hb : b < 2 ^ 64) :
    fieldSampleB (packWord n k a b) = b := by
  unfold fieldSampleB
  rw [packWord_toNat hn hk ha hb]
  norm_num at *
  omega

/-- A word is packed from its fields. -/
theorem packWord_fields (w : OpWord) :
    packWord (fieldNumber w) (fieldSmall w) (fieldSampleA w) (fieldSampleB w) = w := by
  apply BitVec.eq_of_toNat_eq
  have hw := w.isLt
  rw [packWord_toNat (by unfold fieldNumber; omega) (by unfold fieldSmall; omega) (by unfold fieldSampleA; omega)
    (by unfold fieldSampleB; omega)]
  unfold fieldNumber fieldSmall fieldSampleA fieldSampleB
  norm_num at *
  omega

@[simp] theorem channelOfCode_code (c : Channel) : channelOfCode c.code = c := by cases c <;> rfl

theorem code_channelOfCode {n : Nat} (h : n < 4) : (channelOfCode n).code = n := by
  interval_cases n <;> rfl

@[simp] theorem markKindOfCode_code (k : MarkKind) : markKindOfCode k.code = some k := by cases k <;> rfl

@[simp] theorem haltCauseOfCode_code (c : HaltCause) : haltCauseOfCode c.code = some c := by cases c <;> rfl

theorem Channel.code_lt (c : Channel) : c.code < 4 := by cases c <;> decide

theorem MarkKind.code_lt (k : MarkKind) : k.code < 6 := by cases k <;> decide

theorem HaltCause.code_lt (c : HaltCause) : c.code < 3 := by cases c <;> decide

/-- The word of a command byte carries that byte. -/
theorem packCommand_fields (b : Byte) :
    fieldNumber (packCommand b) = b.toNat ∧ fieldSmall (packCommand b) = commandSpace ∧
      fieldSampleA (packCommand b) = 0 ∧ fieldSampleB (packCommand b) = 0 := by
  have hb := b.isLt
  unfold packCommand commandSpace
  refine ⟨fieldNumber_packWord ?_ ?_ ?_ ?_, fieldSmall_packWord ?_ ?_ ?_ ?_, fieldSampleA_packWord ?_ ?_ ?_ ?_,
    fieldSampleB_packWord ?_ ?_ ?_ ?_⟩ <;> first | exact hb | norm_num

/-- The rows of R145 with a register or a pipe: the byte that the encoder builds classifies to its opcode and gives its
operand back. -/
theorem classify_rRegister (r : BitVec 5) :
    classify (0b000#3 ++ r) = .rRegister ∧ cmdRegister (0b000#3 ++ r) = r := by
  revert r
  decide

theorem classify_wRegister (r : BitVec 5) :
    classify (0b001#3 ++ r) = .wRegister ∧ cmdRegister (0b001#3 ++ r) = r := by
  revert r
  decide

theorem classify_wAckPayload (p : BitVec 3) :
    classify (0b10101#5 ++ p) = .wAckPayload ∧ cmdPipe (0b10101#5 ++ p) = p := by
  revert p
  decide

end Sys2Proof
end

