-- ==== Sys2Proof/Laws/Downstream.lean ====
section
/-! SUPPORT. The stage after the block only adds to its stores, whatever it accepts. -/

namespace Sys2Proof.Machine

/-- Nothing is removed from the frames or the ExtendedDataStore, and no commit is taken back. -/
def StoresGrow (d e : Downstream) : Prop := d.frames <+: e.frames ∧ d.extStore <+: e.extStore ∧ d.commits ≤ e.commits

theorem StoresGrow.refl (d : Downstream) : StoresGrow d d := ⟨List.prefix_rfl, List.prefix_rfl, Nat.le_refl _⟩

theorem StoresGrow.trans {d e f : Downstream} (h1 : StoresGrow d e) (h2 : StoresGrow e f) : StoresGrow d f :=
  ⟨h1.1.trans h2.1, h1.2.1.trans h2.2.1, Nat.le_trans h1.2.2 h2.2.2⟩

theorem acceptTransaction_grows (t : Transaction) (d : Downstream) : StoresGrow d (acceptTransaction t d) := by
  unfold acceptTransaction
  cases assemble t d.extStore.length with
  | none =>
    refine ⟨List.prefix_rfl, List.prefix_rfl, ?_⟩
    simp only
    split <;> omega
  | some x => exact ⟨List.prefix_append _ _, List.prefix_append _ _, Nat.le_succ _⟩

theorem acceptCommandByte_grows (b : Byte) (ts : List Transaction) (d : Downstream) :
    StoresGrow d (acceptCommandByte b ts d) := by
  induction ts generalizing d with
  | nil => exact ⟨List.prefix_rfl, List.prefix_rfl, Nat.le_refl _⟩
  | cons t more ih =>
    unfold acceptCommandByte
    cases assemble t d.extStore.length with
    | none => exact (acceptTransaction_grows t d).trans (ih _)
    | some x =>
      simp only
      split
      · exact acceptTransaction_grows t d
      · exact ⟨List.prefix_rfl, List.prefix_rfl, Nat.le_refl _⟩

/-- The address range lies inside the registers 1 to 30. -/
theorem firstAddressRegister_bounds : 1 ≤ Config.firstAddressRegister ∧ Config.firstAddressRegister + 6 ≤ 30 := by
  have h := Config.addressRangePlace.isLt
  unfold Config.firstAddressRegister
  omega

/-- Which registers have an address: the seven from the first, for a register opcode. -/
theorem cmdHasAddress_iff (op : CmdOpcode) (r : BitVec 5) :
    cmdHasAddress op r = true ↔
      cmdIsRegister op = true ∧ Config.firstAddressRegister ≤ r.toNat ∧ r.toNat ≤ Config.firstAddressRegister + 6 := by
  simp only [cmdHasAddress, Bool.and_eq_true, decide_eq_true_eq, and_assoc, Nat.lt_succ_iff]

/-- An issued command byte writes the stage after the block and the model's result field, and nothing else. -/
theorem issueCommand_frame (b : Byte) (s : State) :
    issueCommand b s = { s with down := (issueCommand b s).down, result := classOf b } := rfl

/-- A Transaction from which frames are assembled: its pair is the one in view, and what is seen is its decoding. -/
theorem acceptTransaction_decoded {t : Transaction} {d : Downstream} {f : CommandFrame} {data : Option DataFrame}
    (h : assemble t d.extStore.length = some (f, data)) :
    (acceptTransaction t d).decoded = some (decodeFrames f data (d.extStore ++ assembledBytes t)) := by
  simp only [acceptTransaction, h, Downstream.decoded, Option.bind_some, Downstream.decodedAt, Downstream.dataFrameAt]
  cases data <;> simp

end Sys2Proof.Machine
end

