-- ==== Sys2Proof/Laws/Edges.lean ====
section
/-! SUPPORT. The scan for an edge finds the least one: `next_edge` as R42 defines it. -/

namespace Sys2Proof.Machine

theorem sampleAt_isSome_iff (w : List Instant) (c : Channel) (p : Nat) :
    (sampleAt w c p).isSome = true ↔ p < w.length := by
  simp [sampleAt]

theorem sampleAt_eq_highAt {w : List Instant} {c : Channel} {p : Nat} (h : p < w.length) :
    sampleAt w c p = some (highAt w c p) := by
  simp only [sampleAt, highAt, List.getElem?_eq_getElem h, Option.map_some]
  cases (w[p].line c) <;> rfl

theorem highAt_getElem {w : List Instant} {c : Channel} {p : Nat} (h : p < w.length) :
    highAt w c p = (w[p]).line c := by
  have h1 := sampleAt_eq_highAt (c := c) h
  simp only [sampleAt, List.getElem?_eq_getElem h, Option.map_some, Option.some.injEq] at h1
  exact h1.symm

/-- The scan over the samples after index `p` answers the least index that hits. -/
theorem scan_eq_some_iff (hit : Bool → Bool → Bool) (c : Channel) (prev : Bool) (rest : List Instant) (p e : Nat) :
    scan hit c prev rest p = some e ↔
      ∃ k, e = p + 1 + k ∧
        (∃ x, rest[k]? = some x ∧
          hit (match k with | 0 => prev | j + 1 => ((rest[j]?).map fun y => y.line c).getD prev) (x.line c) = true) ∧
        ∀ j, j < k → ∀ x, rest[j]? = some x →
          hit (match j with | 0 => prev | i + 1 => ((rest[i]?).map fun y => y.line c).getD prev) (x.line c) = false := by
  induction rest generalizing prev p with
  | nil => simp [scan]
  | cons x more ih =>
    unfold scan
    by_cases hx : hit prev (x.line c) = true
    · rw [if_pos hx]
      constructor
      · intro h
        refine ⟨0, by simp_all, ⟨x, by simp, by simpa using hx⟩, by simp⟩
      · rintro ⟨k, rfl, -, hmin⟩
        cases k with
        | zero => simp
        | succ k =>
          have := hmin 0 (by omega) x (by simp)
          simp_all
    · rw [if_neg hx, ih]
      constructor
      · rintro ⟨k, rfl, ⟨y, hy, hhit⟩, hmin⟩
        refine ⟨k + 1, by omega, ⟨y, by simpa using hy, ?_⟩, ?_⟩
        · cases k with
          | zero => simpa using hhit
          | succ j =>
            have hj : j < more.length := by
              have := (List.getElem?_eq_some_iff.mp hy).1
              omega
            simpa [List.getElem?_eq_getElem hj] using hhit
        · intro j hj z hz
          cases j with
          | zero =>
            simp only [List.getElem?_cons_zero, Option.some.injEq] at hz
            subst hz
            simpa using hx
          | succ i =>
            have h1 := hmin i (by omega) z (by simpa using hz)
            cases i with
            | zero => simpa using h1
            | succ i' =>
              have hi : i' < more.length := by
                have := (List.getElem?_eq_some_iff.mp (show more[i' + 1]? = some z by simpa using hz)).1
                omega
              simpa [List.getElem?_eq_getElem hi] using h1
      · rintro ⟨k, rfl, ⟨y, hy, hhit⟩, hmin⟩
        cases k with
        | zero =>
          simp only [List.getElem?_cons_zero, Option.some.injEq] at hy
          subst hy
          simp_all
        | succ k =>
          refine ⟨k, by omega, ⟨y, by simpa using hy, ?_⟩, ?_⟩
          · cases k with
            | zero => simpa using hhit
            | succ j =>
              have hj : j < more.length := by
                have := (List.getElem?_eq_some_iff.mp (show more[j + 1]? = some y by simpa using hy)).1
                omega
              simpa [List.getElem?_eq_getElem hj] using hhit
          · intro j hj z hz
            have h1 := hmin (j + 1) (by omega) z (by simpa using hz)
            cases j with
            | zero => simpa using h1
            | succ i' =>
              have hi : i' < more.length := by
                have := (List.getElem?_eq_some_iff.mp hz).1
                omega
              simpa [List.getElem?_eq_getElem hi] using h1

/-- The scan over a capture from cursor `p` answers the least later sample at which the level before and the level there
hit. -/
theorem scanAfter_eq_some_iff (hit : Bool → Bool → Bool) (w : List Instant) (c : Channel) (p e : Nat) :
    scanAfter hit w c p = some e ↔
      p < e ∧ e < w.length ∧ hit (highAt w c (e - 1)) (highAt w c e) = true ∧
        ∀ q, p < q → q < e → hit (highAt w c (q - 1)) (highAt w c q) = false := by
  unfold scanAfter
  cases hd : w.drop p with
  | nil =>
    have hp : w.length ≤ p := by simpa using hd
    simp only [reduceCtorEq, false_iff]
    rintro ⟨h1, h2, -⟩
    omega
  | cons x rest =>
    have hp : p < w.length := by
      by_contra h
      rw [List.drop_eq_nil_of_le (by omega)] at hd
      cases hd
    have hrest : ∀ k, rest[k]? = w[p + 1 + k]? := by
      intro k
      have h1 : (w.drop p)[k + 1]? = rest[k]? := by rw [hd]; simp
      rw [← h1, List.getElem?_drop]
      congr 1
      omega
    have hx : w[p]? = some x := by
      have h1 : (w.drop p)[0]? = some x := by rw [hd]; simp
      rwa [List.getElem?_drop, Nat.add_zero] at h1
    have hprev : ∀ k, p + 1 + k < w.length →
        (match k with | 0 => x.line c | j + 1 => ((rest[j]?).map fun y => y.line c).getD (x.line c)) =
          highAt w c (p + 1 + k - 1) := by
      intro k hk
      cases k with
      | zero =>
        simp only [Nat.add_zero, Nat.add_sub_cancel]
        rw [highAt_getElem hp]
        rw [List.getElem?_eq_getElem hp, Option.some.injEq] at hx
        rw [hx]
      | succ j =>
        have hj : p + 1 + j < w.length := by omega
        have he : p + 1 + (j + 1) - 1 = p + 1 + j := by omega
        simp only [hrest, List.getElem?_eq_getElem hj, Option.map_some, Option.getD_some, he, highAt_getElem hj]
    have hnow : ∀ k y, rest[k]? = some y → p + 1 + k < w.length ∧ y.line c = highAt w c (p + 1 + k) := by
      intro k y hy
      rw [hrest] at hy
      obtain ⟨h1, h2⟩ := List.getElem?_eq_some_iff.mp hy
      exact ⟨h1, by rw [highAt_getElem h1, h2]⟩
    rw [scan_eq_some_iff]
    constructor
    · rintro ⟨k, rfl, ⟨y, hy, hhit⟩, hmin⟩
      obtain ⟨hk, hyl⟩ := hnow k y hy
      refine ⟨by omega, hk, ?_, ?_⟩
      · rw [← hprev k hk, ← hyl]
        exact hhit
      · intro q hpq hqe
        obtain ⟨j, rfl⟩ : ∃ j, q = p + 1 + j := ⟨q - (p + 1), by omega⟩
        have hj : p + 1 + j < w.length := by omega
        have h1 := hmin j (by omega) w[p + 1 + j] (by rw [hrest, List.getElem?_eq_getElem hj])
        rw [hprev j hj] at h1
        rwa [highAt_getElem hj]
    · rintro ⟨hpe, hew, hhit, hmin⟩
      obtain ⟨k, rfl⟩ : ∃ k, e = p + 1 + k := ⟨e - (p + 1), by omega⟩
      refine ⟨k, rfl, ⟨w[p + 1 + k], by rw [hrest, List.getElem?_eq_getElem hew], ?_⟩, ?_⟩
      · rw [hprev k hew, ← highAt_getElem hew]
        exact hhit
      · intro j hj y hy
        obtain ⟨hjw, hyl⟩ := hnow j y hy
        rw [hprev j hjw, hyl]
        exact hmin (p + 1 + j) (by omega) (by omega)

theorem edgeAt_eq_true_iff (w : List Instant) (c : Channel) (p : Nat) :
    edgeAt w c p = true ↔ 1 ≤ p ∧ p < w.length ∧ isChange (highAt w c (p - 1)) (highAt w c p) = true := by
  simp [edgeAt, isChange, and_assoc]

theorem fallAt_eq_true_iff (w : List Instant) (c : Channel) (p : Nat) :
    fallAt w c p = true ↔ 1 ≤ p ∧ p < w.length ∧ isFall (highAt w c (p - 1)) (highAt w c p) = true := by
  unfold fallAt
  rw [Bool.and_eq_true, edgeAt_eq_true_iff]
  cases highAt w c (p - 1) <;> cases highAt w c p <;> simp [isChange, isFall]

/-- `nextEdge` is `next_edge` of R42. -/
theorem nextEdge_eq_some_iff (w : List Instant) (c : Channel) (p e : Nat) :
    nextEdge w c p = some e ↔ IsNextEdge w c p e := by
  unfold nextEdge IsNextEdge
  rw [scanAfter_eq_some_iff, edgeAt_eq_true_iff]
  constructor
  · rintro ⟨h1, h2, h3, h4⟩
    refine ⟨h1, ⟨by omega, h2, h3⟩, fun q hq hqe => ?_⟩
    rw [Bool.eq_false_iff, Ne, edgeAt_eq_true_iff]
    rintro ⟨-, -, h⟩
    rw [h4 q hq hqe] at h
    cases h
  · rintro ⟨h1, ⟨h2, h3, h4⟩, h5⟩
    refine ⟨h1, h3, h4, fun q hq hqe => ?_⟩
    have h6 := h5 q hq hqe
    rw [Bool.eq_false_iff, Ne, edgeAt_eq_true_iff] at h6
    rw [Bool.eq_false_iff]
    exact fun h => h6 ⟨by omega, by omega, h⟩

/-- `nextFallingEdge` finds the least falling edge of R111. -/
theorem nextFallingEdge_eq_some_iff (w : List Instant) (p a : Nat) :
    nextFallingEdge w .csn p = some a ↔ IsNextFall w p a := by
  unfold nextFallingEdge IsNextFall
  rw [scanAfter_eq_some_iff, fallAt_eq_true_iff]
  constructor
  · rintro ⟨h1, h2, h3, h4⟩
    refine ⟨h1, ⟨by omega, h2, h3⟩, fun q hq hqe => ?_⟩
    rw [Bool.eq_false_iff, Ne, fallAt_eq_true_iff]
    rintro ⟨-, -, h⟩
    rw [h4 q hq hqe] at h
    cases h
  · rintro ⟨h1, ⟨h2, h3, h4⟩, h5⟩
    refine ⟨h1, h3, h4, fun q hq hqe => ?_⟩
    have h6 := h5 q hq hqe
    rw [Bool.eq_false_iff, Ne, fallAt_eq_true_iff] at h6
    rw [Bool.eq_false_iff]
    exact fun h => h6 ⟨by omega, by omega, h⟩

/-- If some later sample is an edge, there is a least one. -/
theorem exists_least_edge {w : List Instant} {c : Channel} {p q : Nat} (hpq : p < q) (hq : edgeAt w c q = true) :
    ∃ e, IsNextEdge w c p e := by
  classical
  have hex : ∃ n, p < n ∧ edgeAt w c n = true := ⟨q, hpq, hq⟩
  refine ⟨Nat.find hex, (Nat.find_spec hex).1, (Nat.find_spec hex).2, fun r hr hlt => ?_⟩
  have := Nat.find_min hex hlt
  simp_all

/-- No edge is found exactly when there is none. -/
theorem nextEdge_eq_none_iff (w : List Instant) (c : Channel) (p : Nat) :
    nextEdge w c p = none ↔ NoEdgeAfter w c p := by
  constructor
  · intro h q hq
    rw [Bool.eq_false_iff]
    intro he
    obtain ⟨e, hn⟩ := exists_least_edge hq he
    rw [(nextEdge_eq_some_iff w c p e).mpr hn] at h
    cases h
  · intro h
    cases hn : nextEdge w c p with
    | none => rfl
    | some e =>
      obtain ⟨h1, h2, -⟩ := (nextEdge_eq_some_iff w c p e).mp hn
      rw [h e h1] at h2
      cases h2

/-- An edge is inside the capture. -/
theorem IsNextEdge.lt_length {w : List Instant} {c : Channel} {p e : Nat} (h : IsNextEdge w c p e) : e < w.length :=
  ((edgeAt_eq_true_iff w c e).mp h.2.1).2.1

/-- Between a cursor in the capture and the next edge the level does not change. -/
theorem highAt_before_nextEdge {w : List Instant} {c : Channel} {p e q : Nat} (h : IsNextEdge w c p e)
    (hpq : p ≤ q) (hqe : q < e) : highAt w c q = highAt w c p := by
  induction q, hpq using Nat.le_induction with
  | base => rfl
  | succ q hq ih =>
    have h1 := h.2.2 (q + 1) (by omega) hqe
    have h2 := h.lt_length
    rw [Bool.eq_false_iff, Ne, edgeAt_eq_true_iff] at h1
    have h3 : isChange (highAt w c q) (highAt w c (q + 1)) ≠ true := by
      intro h4
      exact h1 ⟨by omega, by omega, by simpa using h4⟩
    rw [← ih (by omega)]
    revert h3
    cases highAt w c q <;> cases highAt w c (q + 1) <;> simp [isChange]

/-- At the next edge the level is the complement of the level at the cursor. -/
theorem highAt_nextEdge {w : List Instant} {c : Channel} {p e : Nat} (h : IsNextEdge w c p e) :
    highAt w c e = !highAt w c p := by
  have h1 := ((edgeAt_eq_true_iff w c e).mp h.2.1).2.2
  have h2 := highAt_before_nextEdge h (q := e - 1) (by have := h.1; omega) (by have := h.1; omega)
  rw [h2] at h1
  revert h1
  cases highAt w c p <;> cases highAt w c e <;> simp [isChange]

end Sys2Proof.Machine
end

