-- ==== Sys2Proof/Laws/State.lean ====
section
/-! SUPPORT. One lemma per field per named update of State, and for the cursors. -/

namespace Sys2Proof.Machine

theorem Cursors.get_set_same (p : Cursors) (c : Channel) (v : Nat) : (p.set c v).get c = v := by
  cases c <;> rfl

theorem Cursors.get_set_other (p : Cursors) (c c' : Channel) (v : Nat) (h : c' ≠ c) :
    (p.set c v).get c' = p.get c' := by
  cases c <;> cases c' <;> first | rfl | exact absurd rfl h

@[simp] theorem Cursors.get_all (v : Nat) (c : Channel) : (Cursors.all v).get c = v := by
  cases c <;> rfl

/-- Cursors are equal when they agree on every channel. -/
theorem Cursors.eq_of_get {p q : Cursors} (h : ∀ c, p.get c = q.get c) : p = q := by
  have h1 := h .sck
  have h2 := h .csn
  have h3 := h .mosi
  have h4 := h .miso
  cases p
  cases q
  simp_all [Cursors.get]

/-! ### setCursor -/

@[simp] theorem State.setCursor_capture (s : State) (c : Channel) (v : Nat) : (s.setCursor c v).capture = s.capture := rfl
@[simp] theorem State.setCursor_cancelDraws (s : State) (c : Channel) (v : Nat) : (s.setCursor c v).cancelDraws = s.cancelDraws := rfl
@[simp] theorem State.setCursor_cur (s : State) (c : Channel) (v : Nat) : (s.setCursor c v).cur = s.cur.set c v := rfl
@[simp] theorem State.setCursor_st (s : State) (c : Channel) (v : Nat) : (s.setCursor c v).st = s.st := rfl
@[simp] theorem State.setCursor_haltCause (s : State) (c : Channel) (v : Nat) : (s.setCursor c v).haltCause = s.haltCause := rfl
@[simp] theorem State.setCursor_selLow (s : State) (c : Channel) (v : Nat) : (s.setCursor c v).selLow = s.selLow := rfl
@[simp] theorem State.setCursor_selHigh (s : State) (c : Channel) (v : Nat) : (s.setCursor c v).selHigh = s.selHigh := rfl
@[simp] theorem State.setCursor_first (s : State) (c : Channel) (v : Nat) : (s.setCursor c v).first = s.first := rfl
@[simp] theorem State.setCursor_fall (s : State) (c : Channel) (v : Nat) : (s.setCursor c v).fall = s.fall := rfl
@[simp] theorem State.setCursor_bitIdx (s : State) (c : Channel) (v : Nat) : (s.setCursor c v).bitIdx = s.bitIdx := rfl
@[simp] theorem State.setCursor_mosiAcc (s : State) (c : Channel) (v : Nat) : (s.setCursor c v).mosiAcc = s.mosiAcc := rfl
@[simp] theorem State.setCursor_misoAcc (s : State) (c : Channel) (v : Nat) : (s.setCursor c v).misoAcc = s.misoAcc := rfl
@[simp] theorem State.setCursor_marks (s : State) (c : Channel) (v : Nat) : (s.setCursor c v).marks = s.marks := rfl
@[simp] theorem State.setCursor_byte (s : State) (c : Channel) (v : Nat) : (s.setCursor c v).byte = s.byte := rfl
@[simp] theorem State.setCursor_txn (s : State) (c : Channel) (v : Nat) : (s.setCursor c v).txn = s.txn := rfl
@[simp] theorem State.setCursor_out (s : State) (c : Channel) (v : Nat) : (s.setCursor c v).out = s.out := rfl
@[simp] theorem State.setCursor_down (s : State) (c : Channel) (v : Nat) : (s.setCursor c v).down = s.down := rfl
@[simp] theorem State.setCursor_issue (s : State) (c : Channel) (v : Nat) : (s.setCursor c v).issue = s.issue := rfl
@[simp] theorem State.setCursor_result (s : State) (c : Channel) (v : Nat) : (s.setCursor c v).result = s.result := rfl

/-! ### setCtrl -/

@[simp] theorem State.setCtrl_capture (s : State) (x : CtrlState) : (s.setCtrl x).capture = s.capture := rfl
@[simp] theorem State.setCtrl_cancelDraws (s : State) (x : CtrlState) : (s.setCtrl x).cancelDraws = s.cancelDraws := rfl
@[simp] theorem State.setCtrl_cur (s : State) (x : CtrlState) : (s.setCtrl x).cur = s.cur := rfl
@[simp] theorem State.setCtrl_st (s : State) (x : CtrlState) : (s.setCtrl x).st = x := rfl
@[simp] theorem State.setCtrl_haltCause (s : State) (x : CtrlState) : (s.setCtrl x).haltCause = s.haltCause := rfl
@[simp] theorem State.setCtrl_selLow (s : State) (x : CtrlState) : (s.setCtrl x).selLow = s.selLow := rfl
@[simp] theorem State.setCtrl_selHigh (s : State) (x : CtrlState) : (s.setCtrl x).selHigh = s.selHigh := rfl
@[simp] theorem State.setCtrl_first (s : State) (x : CtrlState) : (s.setCtrl x).first = s.first := rfl
@[simp] theorem State.setCtrl_fall (s : State) (x : CtrlState) : (s.setCtrl x).fall = s.fall := rfl
@[simp] theorem State.setCtrl_bitIdx (s : State) (x : CtrlState) : (s.setCtrl x).bitIdx = s.bitIdx := rfl
@[simp] theorem State.setCtrl_mosiAcc (s : State) (x : CtrlState) : (s.setCtrl x).mosiAcc = s.mosiAcc := rfl
@[simp] theorem State.setCtrl_misoAcc (s : State) (x : CtrlState) : (s.setCtrl x).misoAcc = s.misoAcc := rfl
@[simp] theorem State.setCtrl_marks (s : State) (x : CtrlState) : (s.setCtrl x).marks = s.marks := rfl
@[simp] theorem State.setCtrl_byte (s : State) (x : CtrlState) : (s.setCtrl x).byte = s.byte := rfl
@[simp] theorem State.setCtrl_txn (s : State) (x : CtrlState) : (s.setCtrl x).txn = s.txn := rfl
@[simp] theorem State.setCtrl_out (s : State) (x : CtrlState) : (s.setCtrl x).out = s.out := rfl
@[simp] theorem State.setCtrl_down (s : State) (x : CtrlState) : (s.setCtrl x).down = s.down := rfl
@[simp] theorem State.setCtrl_issue (s : State) (x : CtrlState) : (s.setCtrl x).issue = s.issue := rfl
@[simp] theorem State.setCtrl_result (s : State) (x : CtrlState) : (s.setCtrl x).result = s.result := rfl

/-! ### setResult -/

@[simp] theorem State.setResult_capture (s : State) (r : OpResult) : (s.setResult r).capture = s.capture := rfl
@[simp] theorem State.setResult_cancelDraws (s : State) (r : OpResult) : (s.setResult r).cancelDraws = s.cancelDraws := rfl
@[simp] theorem State.setResult_cur (s : State) (r : OpResult) : (s.setResult r).cur = s.cur := rfl
@[simp] theorem State.setResult_st (s : State) (r : OpResult) : (s.setResult r).st = s.st := rfl
@[simp] theorem State.setResult_haltCause (s : State) (r : OpResult) : (s.setResult r).haltCause = s.haltCause := rfl
@[simp] theorem State.setResult_selLow (s : State) (r : OpResult) : (s.setResult r).selLow = s.selLow := rfl
@[simp] theorem State.setResult_selHigh (s : State) (r : OpResult) : (s.setResult r).selHigh = s.selHigh := rfl
@[simp] theorem State.setResult_first (s : State) (r : OpResult) : (s.setResult r).first = s.first := rfl
@[simp] theorem State.setResult_fall (s : State) (r : OpResult) : (s.setResult r).fall = s.fall := rfl
@[simp] theorem State.setResult_bitIdx (s : State) (r : OpResult) : (s.setResult r).bitIdx = s.bitIdx := rfl
@[simp] theorem State.setResult_mosiAcc (s : State) (r : OpResult) : (s.setResult r).mosiAcc = s.mosiAcc := rfl
@[simp] theorem State.setResult_misoAcc (s : State) (r : OpResult) : (s.setResult r).misoAcc = s.misoAcc := rfl
@[simp] theorem State.setResult_marks (s : State) (r : OpResult) : (s.setResult r).marks = s.marks := rfl
@[simp] theorem State.setResult_byte (s : State) (r : OpResult) : (s.setResult r).byte = s.byte := rfl
@[simp] theorem State.setResult_txn (s : State) (r : OpResult) : (s.setResult r).txn = s.txn := rfl
@[simp] theorem State.setResult_out (s : State) (r : OpResult) : (s.setResult r).out = s.out := rfl
@[simp] theorem State.setResult_down (s : State) (r : OpResult) : (s.setResult r).down = s.down := rfl
@[simp] theorem State.setResult_issue (s : State) (r : OpResult) : (s.setResult r).issue = s.issue := rfl
@[simp] theorem State.setResult_result (s : State) (r : OpResult) : (s.setResult r).result = r := rfl

/-! ### emit -/

@[simp] theorem State.emit_capture (s : State) (m : Message) : (s.emit m).capture = s.capture := rfl
@[simp] theorem State.emit_cancelDraws (s : State) (m : Message) : (s.emit m).cancelDraws = s.cancelDraws := rfl
@[simp] theorem State.emit_cur (s : State) (m : Message) : (s.emit m).cur = s.cur := rfl
@[simp] theorem State.emit_st (s : State) (m : Message) : (s.emit m).st = s.st := rfl
@[simp] theorem State.emit_haltCause (s : State) (m : Message) : (s.emit m).haltCause = s.haltCause := rfl
@[simp] theorem State.emit_selLow (s : State) (m : Message) : (s.emit m).selLow = s.selLow := rfl
@[simp] theorem State.emit_selHigh (s : State) (m : Message) : (s.emit m).selHigh = s.selHigh := rfl
@[simp] theorem State.emit_first (s : State) (m : Message) : (s.emit m).first = s.first := rfl
@[simp] theorem State.emit_fall (s : State) (m : Message) : (s.emit m).fall = s.fall := rfl
@[simp] theorem State.emit_bitIdx (s : State) (m : Message) : (s.emit m).bitIdx = s.bitIdx := rfl
@[simp] theorem State.emit_mosiAcc (s : State) (m : Message) : (s.emit m).mosiAcc = s.mosiAcc := rfl
@[simp] theorem State.emit_misoAcc (s : State) (m : Message) : (s.emit m).misoAcc = s.misoAcc := rfl
@[simp] theorem State.emit_marks (s : State) (m : Message) : (s.emit m).marks = s.marks := rfl
@[simp] theorem State.emit_byte (s : State) (m : Message) : (s.emit m).byte = s.byte := rfl
@[simp] theorem State.emit_txn (s : State) (m : Message) : (s.emit m).txn = s.txn := rfl
@[simp] theorem State.emit_out (s : State) (m : Message) : (s.emit m).out = s.out ++ [m] := rfl
@[simp] theorem State.emit_down (s : State) (m : Message) : (s.emit m).down = s.down := rfl
@[simp] theorem State.emit_issue (s : State) (m : Message) : (s.emit m).issue = s.issue := rfl
@[simp] theorem State.emit_result (s : State) (m : Message) : (s.emit m).result = s.result := rfl

/-! ### emitAll -/

@[simp] theorem State.emitAll_capture (s : State) (ms : List Message) : (s.emitAll ms).capture = s.capture := rfl
@[simp] theorem State.emitAll_cancelDraws (s : State) (ms : List Message) : (s.emitAll ms).cancelDraws = s.cancelDraws := rfl
@[simp] theorem State.emitAll_cur (s : State) (ms : List Message) : (s.emitAll ms).cur = s.cur := rfl
@[simp] theorem State.emitAll_st (s : State) (ms : List Message) : (s.emitAll ms).st = s.st := rfl
@[simp] theorem State.emitAll_haltCause (s : State) (ms : List Message) : (s.emitAll ms).haltCause = s.haltCause := rfl
@[simp] theorem State.emitAll_selLow (s : State) (ms : List Message) : (s.emitAll ms).selLow = s.selLow := rfl
@[simp] theorem State.emitAll_selHigh (s : State) (ms : List Message) : (s.emitAll ms).selHigh = s.selHigh := rfl
@[simp] theorem State.emitAll_first (s : State) (ms : List Message) : (s.emitAll ms).first = s.first := rfl
@[simp] theorem State.emitAll_fall (s : State) (ms : List Message) : (s.emitAll ms).fall = s.fall := rfl
@[simp] theorem State.emitAll_bitIdx (s : State) (ms : List Message) : (s.emitAll ms).bitIdx = s.bitIdx := rfl
@[simp] theorem State.emitAll_mosiAcc (s : State) (ms : List Message) : (s.emitAll ms).mosiAcc = s.mosiAcc := rfl
@[simp] theorem State.emitAll_misoAcc (s : State) (ms : List Message) : (s.emitAll ms).misoAcc = s.misoAcc := rfl
@[simp] theorem State.emitAll_marks (s : State) (ms : List Message) : (s.emitAll ms).marks = s.marks := rfl
@[simp] theorem State.emitAll_byte (s : State) (ms : List Message) : (s.emitAll ms).byte = s.byte := rfl
@[simp] theorem State.emitAll_txn (s : State) (ms : List Message) : (s.emitAll ms).txn = s.txn := rfl
@[simp] theorem State.emitAll_out (s : State) (ms : List Message) : (s.emitAll ms).out = s.out ++ ms := rfl
@[simp] theorem State.emitAll_down (s : State) (ms : List Message) : (s.emitAll ms).down = s.down := rfl
@[simp] theorem State.emitAll_issue (s : State) (ms : List Message) : (s.emitAll ms).issue = s.issue := rfl
@[simp] theorem State.emitAll_result (s : State) (ms : List Message) : (s.emitAll ms).result = s.result := rfl

end Sys2Proof.Machine
end

