-- ==== Sys2Proof/Laws/Ops.lean ====
section
/-! SUPPORT. Once for each shared operation, everything it can do. -/

namespace Sys2Proof.Machine

/-! ### Sequencing -/

@[simp] theorem andThen_next {α β : Type} (a : α) (f : α → Res β) : andThen (.next a) f = f a := rfl

@[simp] theorem andThen_fault {α β : Type} (r : Fault) (f : α → Res β) : andThen (.fault r) f = .fault r := rfl

@[simp] theorem andThen_refused {α β : Type} (r : Refusal) (f : α → Res β) : andThen (.refused r) f = .refused r := rfl

theorem andThen_eq_next {α β : Type} {x : Res α} {f : α → Res β} {b : β} :
    andThen x f = .next b ↔ ∃ a, x = .next a ∧ f a = .next b := by
  cases x <;> simp [andThen]

@[simp] theorem unlessEnd_next (s : State) (ok : Bool) (f : State → Res (State × Bool)) :
    unlessEnd (.next (s, ok)) f = if ok then f s else .next (s, false) := rfl

/-- A sequel after a part that may return END: the part returned END, or the sequel ran. -/
theorem unlessEnd_eq_next {x : Res (State × Bool)} {f : State → Res (State × Bool)} {r : State × Bool} :
    unlessEnd x f = .next r ↔
      (∃ s, x = .next (s, false) ∧ r = (s, false)) ∨ ∃ s, x = .next (s, true) ∧ f s = .next r := by
  unfold unlessEnd
  rw [andThen_eq_next]
  constructor
  · rintro ⟨⟨s, ok⟩, rfl, h⟩
    cases ok
    · left
      exact ⟨s, rfl, by simpa using h.symm⟩
    · right
      exact ⟨s, rfl, by simpa using h⟩
  · rintro (⟨s, rfl, rfl⟩ | ⟨s, rfl, h⟩)
    · exact ⟨(s, false), rfl, by simp⟩
    · exact ⟨(s, true), rfl, by simpa using h⟩

/-! ### Guards -/

/-- While a run is on, an operation whose rule names no control state runs. -/
theorem requireOp_none {s : State} (h : Running s) (go : Res State) : requireOp none s go = go := by
  simp [requireOp, h.1, h.2]

/-- While a run is on, an operation issued in the state its rule names runs. -/
theorem requireOp_some {s : State} {x : CtrlState} (h : Running s) (hx : s.st = x) (go : Res State) :
    requireOp (some x) s go = go := by
  unfold requireOp
  rw [if_neg h.1, if_neg h.2]
  simp [hx]

/-- A guarded operation that answers a next state: a run is on, ST is the state named, and the operation ran. -/
theorem requireOp_eq_next {need : Option CtrlState} {s t : State} {go : Res State} (h : requireOp need s go = .next t) :
    Running s ∧ (∀ x, need = some x → s.st = x) ∧ go = .next t := by
  unfold requireOp at h
  split at h
  · cases h
  · split at h
    · cases h
    · rename_i h1 h2
      cases need with
      | none => exact ⟨⟨h1, h2⟩, by simp, h⟩
      | some x =>
        simp only at h
        split at h
        · rename_i h3
          exact ⟨⟨h1, h2⟩, fun y hy => by rw [← Option.some.inj hy]; exact h3, h⟩
        · cases h

/-! ### Cursors -/

/-- Reading at a cursor inside the capture. -/
theorem readLevel_inside {s : State} {c : Channel} (h : s.cur.get c < s.size) :
    readLevel c s = .next (highAt s.capture c (s.cur.get c)) := by
  unfold readLevel
  rw [sampleAt_eq_highAt h]

theorem readLevel_eq_next {s : State} {c : Channel} {b : Bool} (h : readLevel c s = .next b) :
    s.cur.get c < s.size ∧ b = highAt s.capture c (s.cur.get c) := by
  by_cases hlt : s.cur.get c < s.size
  · rw [readLevel_inside hlt] at h
    exact ⟨hlt, by simpa using h.symm⟩
  · have h1 : sampleAt s.capture c (s.cur.get c) = none := by
      have h2 := sampleAt_isSome_iff s.capture c (s.cur.get c)
      unfold State.size at hlt
      cases h3 : sampleAt s.capture c (s.cur.get c) with
      | none => rfl
      | some x =>
        rw [h3] at h2
        exact absurd (h2.mp rfl) hlt
    unfold readLevel at h
    rw [h1] at h
    cases h

/-- A forward seek inside the capture. -/
theorem seekTo_forward {s : State} {c : Channel} {p : Nat} (h1 : s.cur.get c ≤ p) (h2 : p < s.size) :
    seekTo c p s = .next (s.setCursor c p) := by
  simp [seekTo, Nat.not_lt.mpr h1, Nat.not_le.mpr h2]

theorem seekTo_eq_next {s t : State} {c : Channel} {p : Nat} (h : seekTo c p s = .next t) :
    s.cur.get c ≤ p ∧ p < s.size ∧ t = s.setCursor c p := by
  unfold seekTo at h
  split at h
  · cases h
  · split at h
    · cases h
    · rename_i h1 h2
      exact ⟨by omega, by omega, by simpa using h.symm⟩

/-- Four seeks to one sample: all four cursors were at or before it, and stand there afterwards. -/
theorem seekAll_eq_next {s t : State} {p : Nat} :
    seekAll p s = .next t ↔ (∀ c, s.cur.get c ≤ p) ∧ p < s.size ∧ t = { s with cur := Cursors.all p } := by
  constructor
  · intro h
    unfold seekAll at h
    obtain ⟨s1, h1, h⟩ := andThen_eq_next.mp h
    obtain ⟨s2, h2, h⟩ := andThen_eq_next.mp h
    obtain ⟨s3, h3, h4⟩ := andThen_eq_next.mp h
    obtain ⟨g1, g2, rfl⟩ := seekTo_eq_next h1
    obtain ⟨g3, -, rfl⟩ := seekTo_eq_next h2
    obtain ⟨g5, -, rfl⟩ := seekTo_eq_next h3
    obtain ⟨g7, -, rfl⟩ := seekTo_eq_next h4
    refine ⟨?_, g2, rfl⟩
    intro c
    cases c
    · exact g1
    · exact g3
    · exact g5
    · exact g7
  · rintro ⟨h1, h2, rfl⟩
    unfold seekAll
    rw [seekTo_forward (h1 .sck) h2, andThen_next,
      seekTo_forward (s := s.setCursor .sck p) (h1 .csn) h2, andThen_next,
      seekTo_forward (s := (s.setCursor .sck p).setCursor .csn p) (h1 .mosi) h2, andThen_next,
      seekTo_forward (s := ((s.setCursor .sck p).setCursor .csn p).setCursor .mosi p) (h1 .miso) h2]
    rfl

/-- SYNC: the other three cursors were at or before the clock's, and stand there afterwards. -/
theorem syncLines_eq_next {s t : State} :
    syncLines s = .next t ↔
      (∀ c, s.cur.get c ≤ s.cur.sck) ∧ s.cur.sck < s.size ∧ t = { s with cur := Cursors.all s.cur.sck } := by
  constructor
  · intro h
    unfold syncLines at h
    obtain ⟨s1, h1, h⟩ := andThen_eq_next.mp h
    obtain ⟨s2, h2, h3⟩ := andThen_eq_next.mp h
    obtain ⟨g1, g2, rfl⟩ := seekTo_eq_next h1
    obtain ⟨g3, -, rfl⟩ := seekTo_eq_next h2
    obtain ⟨g5, -, rfl⟩ := seekTo_eq_next h3
    refine ⟨?_, g2, rfl⟩
    intro c
    cases c
    · exact Nat.le_refl _
    · exact g1
    · exact g3
    · exact g5
  · rintro ⟨h1, h2, rfl⟩
    unfold syncLines
    rw [seekTo_forward (h1 .csn) h2, andThen_next,
      seekTo_forward (s := s.setCursor .csn s.cur.sck) (h1 .mosi) h2, andThen_next,
      seekTo_forward (s := (s.setCursor .csn s.cur.sck).setCursor .mosi s.cur.sck) (h1 .miso) h2]
    rfl

/-- The clock-advance call that succeeds: to the next clock edge, which is before the deassertion sample. -/
theorem advanceClock_ok {s : State} {e : Nat} (h : IsNextEdge s.capture .sck s.cur.sck e) (hlt : e < s.selHigh) :
    advanceClock s = .next (s.setCursor .sck e, true) := by
  unfold advanceClock
  rw [(nextEdge_eq_some_iff _ _ _ _).mpr h]
  simp [edgeEndsWindow, Nat.not_le.mpr hlt]

/-- The clock-advance call that fails: no clock edge before the deassertion sample. -/
theorem advanceClock_fail {s : State} (h : ∀ e, IsNextEdge s.capture .sck s.cur.sck e → s.selHigh ≤ e)
    (h1 : ∀ c, s.cur.get c ≤ s.selHigh) (h2 : s.selHigh < s.size) :
    advanceClock s = .next ({ s with cur := Cursors.all s.selHigh }, false) := by
  have he : edgeEndsWindow (nextEdge s.capture .sck s.cur.sck) s.selHigh = true := by
    cases hn : nextEdge s.capture .sck s.cur.sck with
    | none => rfl
    | some e => simp [edgeEndsWindow, h e ((nextEdge_eq_some_iff _ _ _ _).mp hn)]
  unfold advanceClock
  simp only [he, if_true]
  unfold landOnDeassertion
  rw [seekAll_eq_next.mpr ⟨h1, h2, rfl⟩, andThen_next]

/-- Everything the clock-advance call can do when it answers. -/
theorem advanceClock_eq_next {s t : State} {ok : Bool} (h : advanceClock s = .next (t, ok)) :
    (ok = true ∧ ∃ e, IsNextEdge s.capture .sck s.cur.sck e ∧ e < s.selHigh ∧ t = s.setCursor .sck e) ∨
    (ok = false ∧ (∀ e, IsNextEdge s.capture .sck s.cur.sck e → s.selHigh ≤ e) ∧
      (∀ c, s.cur.get c ≤ s.selHigh) ∧ s.selHigh < s.size ∧ t = { s with cur := Cursors.all s.selHigh }) := by
  by_cases hx : ∃ e, IsNextEdge s.capture .sck s.cur.sck e ∧ e < s.selHigh
  · obtain ⟨e, he, hlt⟩ := hx
    rw [advanceClock_ok he hlt] at h
    simp only [Host.Outcome.next.injEq, Prod.mk.injEq] at h
    exact Or.inl ⟨h.2.symm, e, he, hlt, h.1.symm⟩
  · have hge : ∀ e, IsNextEdge s.capture .sck s.cur.sck e → s.selHigh ≤ e := by
      intro e he
      by_contra hlt
      exact hx ⟨e, he, by omega⟩
    have hends : edgeEndsWindow (nextEdge s.capture .sck s.cur.sck) s.selHigh = true := by
      cases hn : nextEdge s.capture .sck s.cur.sck with
      | none => rfl
      | some e => simp [edgeEndsWindow, hge e ((nextEdge_eq_some_iff _ _ _ _).mp hn)]
    unfold advanceClock at h
    simp only [hends, if_true] at h
    obtain ⟨s1, h1, h2⟩ := andThen_eq_next.mp h
    simp only [Host.Outcome.next.injEq, Prod.mk.injEq] at h2
    obtain ⟨g1, g2, rfl⟩ := seekAll_eq_next.mp h1
    exact Or.inr ⟨h2.2.symm, hge, g1, g2, h2.1.symm⟩

/-! ### Inputs -/

@[simp] theorem readCancel_fst (s : State) : (readCancel s).1 = s.cancelDraws.headD false := by
  unfold readCancel
  cases s.cancelDraws <;> rfl

@[simp] theorem readCancel_snd (s : State) : (readCancel s).2 = { s with cancelDraws := s.cancelDraws.tail } := by
  unfold readCancel
  cases h : s.cancelDraws with
  | nil =>
    cases s
    simp_all
  | cons b rest => rfl

theorem takeIssued_nil {s : State} (h : s.issue = []) : takeIssued s = none := by
  simp [takeIssued, h]

theorem takeIssued_cons {s : State} {w : OpWord} {rest : List OpWord} (h : s.issue = w :: rest) :
    takeIssued s = some (w, { s with issue := rest }) := by
  simp [takeIssued, h]

/-! ### Windows -/

/-- FINDSEL's search answers the next complete window (R111). -/
theorem findWindow_eq_some_iff (s : State) (a d : Nat) :
    findWindow s = some (a, d) ↔ IsNextWindow s.capture s.cur.csn a d := by
  unfold findWindow IsNextWindow
  cases hf : nextFallingEdge s.capture .csn s.cur.csn with
  | none =>
    simp only [reduceCtorEq, false_iff]
    rintro ⟨h, -⟩
    rw [(nextFallingEdge_eq_some_iff _ _ _).mpr h] at hf
    cases hf
  | some a' =>
    have ha := (nextFallingEdge_eq_some_iff _ _ _).mp hf
    cases hn : nextEdge s.capture .csn a' with
    | none =>
      simp only [hn, reduceCtorEq, false_iff]
      rintro ⟨h, h2⟩
      rw [(nextFallingEdge_eq_some_iff _ _ _).mpr h, Option.some.injEq] at hf
      subst hf
      rw [(nextEdge_eq_some_iff _ _ _ _).mpr h2] at hn
      cases hn
    | some d' =>
      have hd := (nextEdge_eq_some_iff _ _ _ _).mp hn
      simp only [hn, Option.some.injEq, Prod.mk.injEq]
      constructor
      · rintro ⟨rfl, rfl⟩
        exact ⟨ha, hd⟩
      · rintro ⟨h, h2⟩
        rw [(nextFallingEdge_eq_some_iff _ _ _).mpr h, Option.some.injEq] at hf
        subst hf
        rw [(nextEdge_eq_some_iff _ _ _ _).mpr h2, Option.some.injEq] at hn
        exact ⟨rfl, hn.symm⟩

end Sys2Proof.Machine
end

