-- ==== Sys2Proof/Laws/PerInstr.lean ====
section
/-! SUPPORT. Statements for all instructions, one lemma for each constructor. Family `TableNumber`: the encoder puts the
operation number of R69, or a byte of the command's row of R145, in the low eight bits. -/

namespace Sys2Proof.Laws.TableNumber

/-- What opcode_table.json fixes of the low eight bits of an instruction's word. -/
def Statement : Instr → Prop
  | .bitstate c => fieldNumber (encode (.bitstate c)) = 0x01
  | .nextedge c => fieldNumber (encode (.nextedge c)) = 0x02
  | .seek c p => (Instr.seek c p).fits = true → fieldNumber (encode (.seek c p)) = 0x03
  | .peekedge c => fieldNumber (encode (.peekedge c)) = 0x04
  | .moreedges c => fieldNumber (encode (.moreedges c)) = 0x05
  | .advsck => fieldNumber (encode .advsck) = 0x08
  | .sync => fieldNumber (encode .sync) = 0x09
  | .samplebit => fieldNumber (encode .samplebit) = 0x0A
  | .samplebyte first => fieldNumber (encode (.samplebyte first)) = 0x0B
  | .findsel => fieldNumber (encode .findsel) = 0x10
  | .opentxn a d => (Instr.opentxn a d).fits = true → fieldNumber (encode (.opentxn a d)) = 0x11
  | .collect => fieldNumber (encode .collect) = 0x12
  | .pushbyte => fieldNumber (encode .pushbyte) = 0x13
  | .closetxn => fieldNumber (encode .closetxn) = 0x14
  | .halt cause => fieldNumber (encode (.halt cause)) = 0x15
  | .run => fieldNumber (encode .run) = 0x16
  | .emitmark p k c => (Instr.emitmark p k c).fits = true → fieldNumber (encode (.emitmark p k c)) = 0x18
  | .emittxn => fieldNumber (encode .emittxn) = 0x19
  | .progress p => (Instr.progress p).fits = true → fieldNumber (encode (.progress p)) = 0x1A
  | .rRegister r => fieldNumber (encode (.rRegister r)) = r.toNat
  | .wRegister r => fieldNumber (encode (.wRegister r)) = 0x20 + r.toNat
  | .rRxPayload => fieldNumber (encode .rRxPayload) = 0x61
  | .wTxPayload => fieldNumber (encode .wTxPayload) = 0xA0
  | .flushTx => fieldNumber (encode .flushTx) = 0xE1
  | .flushRx => fieldNumber (encode .flushRx) = 0xE2
  | .reuseTxPl => fieldNumber (encode .reuseTxPl) = 0xE3
  | .activate => fieldNumber (encode .activate) = 0x50
  | .rRxPlWid => fieldNumber (encode .rRxPlWid) = 0x60
  | .wTxPayloadNoack => fieldNumber (encode .wTxPayloadNoack) = 0xB0
  | .nop => fieldNumber (encode .nop) = 0xFF
  | .wAckPayload pipe => fieldNumber (encode (.wAckPayload pipe)) = 0xA8 + pipe.toNat

/-- The number of a word with a small operand and no sample index. -/
theorem number_of_small {n k : Nat} (hn : n < 256) (hk : k < 256) : fieldNumber (packWord n k 0 0) = n :=
  fieldNumber_packWord hn hk (by norm_num) (by norm_num)

theorem fits_lt {p : Nat} (h : sampleFits p = true) : p < 2 ^ 64 := by
  unfold sampleFits Config.sampleBits at h
  exact of_decide_eq_true h

theorem bitstate (c : Channel) : Statement (.bitstate c) :=
  number_of_small (by norm_num) (by have := c.code_lt; omega)

theorem nextedge (c : Channel) : Statement (.nextedge c) :=
  number_of_small (by norm_num) (by have := c.code_lt; omega)

theorem seek (c : Channel) (p : Nat) : Statement (.seek c p) := fun h =>
  fieldNumber_packWord (by norm_num) (by have := c.code_lt; omega) (fits_lt h) (by norm_num)

theorem peekedge (c : Channel) : Statement (.peekedge c) :=
  number_of_small (by norm_num) (by have := c.code_lt; omega)

theorem moreedges (c : Channel) : Statement (.moreedges c) :=
  number_of_small (by norm_num) (by have := c.code_lt; omega)

theorem advsck : Statement .advsck := number_of_small (by norm_num) (by norm_num)

theorem sync : Statement .sync := number_of_small (by norm_num) (by norm_num)

theorem samplebit : Statement .samplebit := number_of_small (by norm_num) (by norm_num)

theorem samplebyte (first : Bool) : Statement (.samplebyte first) :=
  number_of_small (by norm_num) (by cases first <;> decide)

theorem findsel : Statement .findsel := number_of_small (by norm_num) (by norm_num)

theorem opentxn (a d : Nat) : Statement (.opentxn a d) := fun h => by
  simp only [Instr.fits, Bool.and_eq_true] at h
  exact fieldNumber_packWord (by norm_num) (by norm_num) (fits_lt h.1) (fits_lt h.2)

theorem collect : Statement .collect := number_of_small (by norm_num) (by norm_num)

theorem pushbyte : Statement .pushbyte := number_of_small (by norm_num) (by norm_num)

theorem closetxn : Statement .closetxn := number_of_small (by norm_num) (by norm_num)

theorem halt (cause : HaltCause) : Statement (.halt cause) :=
  number_of_small (by norm_num) (by have := cause.code_lt; omega)

theorem run : Statement .run := number_of_small (by norm_num) (by norm_num)

theorem emitmark (p : Nat) (kind : MarkKind) (channel : Channel) : Statement (.emitmark p kind channel) := fun h =>
  fieldNumber_packWord (by norm_num) (by have := channel.code_lt; have := kind.code_lt; omega) (fits_lt h) (by norm_num)

theorem emittxn : Statement .emittxn := number_of_small (by norm_num) (by norm_num)

theorem progress (p : Nat) : Statement (.progress p) := fun h =>
  fieldNumber_packWord (by norm_num) (by norm_num) (fits_lt h) (by norm_num)

theorem rRegister (r : BitVec 5) : Statement (.rRegister r) := by
  have h := (packCommand_fields (0b000#3 ++ r)).1
  refine h.trans ?_
  revert r
  decide

theorem wRegister (r : BitVec 5) : Statement (.wRegister r) := by
  have h := (packCommand_fields (0b001#3 ++ r)).1
  refine h.trans ?_
  revert r
  decide

theorem rRxPayload : Statement .rRxPayload := (packCommand_fields 0x61).1

theorem wTxPayload : Statement .wTxPayload := (packCommand_fields 0xA0).1

theorem flushTx : Statement .flushTx := (packCommand_fields 0xE1).1

theorem flushRx : Statement .flushRx := (packCommand_fields 0xE2).1

theorem reuseTxPl : Statement .reuseTxPl := (packCommand_fields 0xE3).1

theorem activate : Statement .activate := (packCommand_fields 0x50).1

theorem rRxPlWid : Statement .rRxPlWid := (packCommand_fields 0x60).1

theorem wTxPayloadNoack : Statement .wTxPayloadNoack := (packCommand_fields 0xB0).1

theorem nop : Statement .nop := (packCommand_fields 0xFF).1

theorem wAckPayload (pipe : BitVec 3) : Statement (.wAckPayload pipe) := by
  have h := (packCommand_fields (0b10101#5 ++ pipe)).1
  refine h.trans ?_
  revert pipe
  decide

end Sys2Proof.Laws.TableNumber
end

