-- ==== Sys2Proof/Laws/Sampler.lean ====
section
/-! SUPPORT. What the parts of the Sampler can do: the bit that is recorded, and what no part of the Sampler changes. -/

namespace Sys2Proof.Machine

/-- A shift is doubling and adding the bit, in eight bits. -/
theorem shiftIn_eq (acc : Byte) (b : Bool) : shiftIn acc b = BitVec.ofNat 8 (2 * acc.toNat + b.toNat) := by
  revert acc b
  decide

/-- A capture that has a sample below its length is not empty, so a run is on in a state that is not HALTED. -/
theorem running_of_lt_size {s : State} {p : Nat} (h : p < s.size) (hst : s.st ≠ .halted) : Running s := by
  refine ⟨?_, hst⟩
  intro he
  simp [State.size, he] at h

theorem SamplerReady.running {s : State} (h : SamplerReady s) : Running s :=
  running_of_lt_size h.windowInCapture (by rw [h.inTxn]; decide)

/-- The state after the bit at the clock's position has been recorded. -/
def bitRecorded (s : State) : State :=
  { s with
    cur := Cursors.all s.cur.sck
    marks := s.marks.set s.bitIdx.toNat
      ⟨s.cur.sck, dirOfBit s.fall, highAt s.capture .mosi s.cur.sck, highAt s.capture .miso s.cur.sck⟩ s.bitIdx.isLt
    mosiAcc := shiftIn s.mosiAcc (highAt s.capture .mosi s.cur.sck)
    misoAcc := shiftIn s.misoAcc (highAt s.capture .miso s.cur.sck)
    fall := false }

/-- Recording a bit answers exactly when no line is ahead of the clock and the clock is in the capture. -/
theorem recordBit_eq_next {s t : State} :
    recordBit s = .next t ↔ (∀ c, s.cur.get c ≤ s.cur.sck) ∧ s.cur.sck < s.size ∧ t = bitRecorded s := by
  have key : (∀ c, s.cur.get c ≤ s.cur.sck) → s.cur.sck < s.size → recordBit s = .next (bitRecorded s) := by
    intro h1 h2
    unfold recordBit
    rw [syncLines_eq_next.mpr ⟨h1, h2, rfl⟩, andThen_next,
      readLevel_inside (s := { s with cur := Cursors.all s.cur.sck }) (by rw [Cursors.get_all]; exact h2), andThen_next,
      readLevel_inside (s := { s with cur := Cursors.all s.cur.sck }) (by rw [Cursors.get_all]; exact h2), andThen_next]
    simp only [Cursors.get_all]
    rfl
  constructor
  · intro h
    have h0 := h
    unfold recordBit at h
    obtain ⟨s1, h1, -⟩ := andThen_eq_next.mp h
    obtain ⟨g1, g2, -⟩ := syncLines_eq_next.mp h1
    rw [key g1 g2] at h0
    exact ⟨g1, g2, by simpa using h0.symm⟩
  · rintro ⟨h1, h2, rfl⟩
    exact key h1 h2

/-- Two states that differ at most in what the Sampler's parts write: cursors, FALL, BITIDX, the accumulators and MK. -/
def SamplerFrame (s t : State) : Prop :=
  t = { s with
        cur := t.cur, fall := t.fall, bitIdx := t.bitIdx, mosiAcc := t.mosiAcc, misoAcc := t.misoAcc, marks := t.marks }

theorem SamplerFrame.refl (s : State) : SamplerFrame s s := rfl

theorem SamplerFrame.trans {s t u : State} (h1 : SamplerFrame s t) (h2 : SamplerFrame t u) : SamplerFrame s u := by
  unfold SamplerFrame at *
  rw [h2, h1]

/-- A part of the Sampler that answers keeps the frame and moves no cursor backwards. -/
def KeepsSamplerFrame (f : State → Res (State × Bool)) : Prop :=
  ∀ s t ok, f s = .next (t, ok) → SamplerFrame s t ∧ ∀ c, s.cur.get c ≤ t.cur.get c

theorem keepsSamplerFrame_advanceClock : KeepsSamplerFrame advanceClock := by
  intro s t ok h
  rcases advanceClock_eq_next h with ⟨-, e, he, -, rfl⟩ | ⟨-, -, h1, -, rfl⟩
  · refine ⟨rfl, fun c => ?_⟩
    by_cases hc : c = .sck
    · subst hc
      rw [State.setCursor_cur, Cursors.get_set_same]
      exact Nat.le_of_lt he.1
    · rw [State.setCursor_cur, Cursors.get_set_other _ _ _ _ hc]
  · exact ⟨rfl, fun c => by rw [Cursors.get_all]; exact h1 c⟩

/-- One part after another, the second only if the first did not return END. -/
theorem keepsSamplerFrame_unlessEnd {s t : State} {ok : Bool} {x : Res (State × Bool)} {f : State → Res (State × Bool)}
    (hx : ∀ u ok, x = .next (u, ok) → SamplerFrame s u ∧ ∀ c, s.cur.get c ≤ u.cur.get c) (hf : KeepsSamplerFrame f)
    (h : unlessEnd x f = .next (t, ok)) : SamplerFrame s t ∧ ∀ c, s.cur.get c ≤ t.cur.get c := by
  rcases unlessEnd_eq_next.mp h with ⟨u, hu, he⟩ | ⟨u, hu, hfu⟩
  · cases he
    exact hx t false hu
  · obtain ⟨g1, g2⟩ := hx u true hu
    obtain ⟨g3, g4⟩ := hf u t ok hfu
    exact ⟨g1.trans g3, fun c => Nat.le_trans (g2 c) (g4 c)⟩

/-- The clock advances, or nothing happens. -/
theorem advanceIf_frame {s u : State} {ok cond : Bool}
    (h : (if cond = true then advanceClock s else .next (s, true)) = .next (u, ok)) :
    SamplerFrame s u ∧ ∀ c, s.cur.get c ≤ u.cur.get c := by
  cases cond
  · simp only [Bool.false_eq_true, if_false, Host.Outcome.next.injEq, Prod.mk.injEq] at h
    rw [← h.1]
    exact ⟨SamplerFrame.refl s, fun _ => Nat.le_refl _⟩
  · simp only [if_true] at h
    exact keepsSamplerFrame_advanceClock s u ok h

theorem keepsSamplerFrame_sampleBit : KeepsSamplerFrame sampleBit := by
  intro s t ok h
  refine keepsSamplerFrame_unlessEnd (fun u ok hu => advanceIf_frame hu) ?_ h
  intro s t ok h
  obtain ⟨u, hu, h2⟩ := andThen_eq_next.mp h
  obtain ⟨g1, -, rfl⟩ := recordBit_eq_next.mp hu
  simp only [Host.Outcome.next.injEq, Prod.mk.injEq] at h2
  rw [← h2.1]
  exact ⟨rfl, fun c => by simpa [bitRecorded] using g1 c⟩

theorem keepsSamplerFrame_interBit : KeepsSamplerFrame interBit := by
  intro s t ok h
  obtain ⟨high, -, h2⟩ := andThen_eq_next.mp h
  exact keepsSamplerFrame_unlessEnd (fun u ok hu => advanceIf_frame hu) keepsSamplerFrame_advanceClock h2

theorem keepsSamplerFrame_samplerEntry (first : Bool) : KeepsSamplerFrame (samplerEntry first) := by
  intro s t ok h
  obtain ⟨high, -, h2⟩ := andThen_eq_next.mp h
  have h3 : SamplerFrame s { s with fall := false, mosiAcc := 0, misoAcc := 0 } := rfl
  refine keepsSamplerFrame_unlessEnd (fun u ok hu => ?_) ?_ h2
  · obtain ⟨g1, g2⟩ := advanceIf_frame hu
    exact ⟨h3.trans g1, g2⟩
  · intro s t ok h
    obtain ⟨now, -, h4⟩ := andThen_eq_next.mp h
    cases now
    · exact keepsSamplerFrame_advanceClock s t ok (by simpa using h4)
    · simp only [if_true, Host.Outcome.next.injEq, Prod.mk.injEq] at h4
      rw [← h4.1]
      exact ⟨rfl, fun _ => Nat.le_refl _⟩

theorem keepsSamplerFrame_sampleBits (left : Nat) : KeepsSamplerFrame (sampleBits left) := by
  induction left with
  | zero =>
    intro s t ok h
    simp only [sampleBits, Host.Outcome.next.injEq, Prod.mk.injEq] at h
    rw [← h.1]
    exact ⟨SamplerFrame.refl s, fun _ => Nat.le_refl _⟩
  | succ left ih =>
    intro s t ok h
    unfold sampleBits at h
    refine keepsSamplerFrame_unlessEnd (fun u ok hu => ?_) ?_ h
    · obtain ⟨g1, g2⟩ := keepsSamplerFrame_sampleBit _ u ok hu
      exact ⟨SamplerFrame.trans (show SamplerFrame s { s with bitIdx := BitVec.ofNat 3 (7 - left) } from rfl) g1, g2⟩
    · intro s t ok h
      by_cases h0 : left = 0
      · simp only [h0, if_true, Host.Outcome.next.injEq, Prod.mk.injEq] at h
        rw [← h.1]
        exact ⟨SamplerFrame.refl s, fun _ => Nat.le_refl _⟩
      · simp only [h0, if_false] at h
        exact keepsSamplerFrame_unlessEnd (fun u ok hu => keepsSamplerFrame_interBit s u ok hu) ih h

/-- SAMPLEBYTE changes what its parts change and, on success, BYTE. -/
theorem sampleByte_frame {first : Bool} {s t : State} {ok : Bool} (h : sampleByte first s = .next (t, ok)) :
    SamplerFrame { s with byte := t.byte } t ∧ (ok = false → t.byte = s.byte) ∧ ∀ c, s.cur.get c ≤ t.cur.get c := by
  rcases unlessEnd_eq_next.mp h with ⟨u, hu, he⟩ | ⟨u, hu, h2⟩
  · cases he
    obtain ⟨g1, g2⟩ := keepsSamplerFrame_samplerEntry first s t false hu
    have hb : t.byte = s.byte := by rw [g1]
    exact ⟨by rw [hb]; exact g1, fun _ => hb, g2⟩
  · obtain ⟨g1, g2⟩ := keepsSamplerFrame_samplerEntry first s u true hu
    rcases unlessEnd_eq_next.mp h2 with ⟨v, hv, he⟩ | ⟨v, hv, h3⟩
    · cases he
      obtain ⟨g3, g4⟩ := keepsSamplerFrame_sampleBits 8 u t false hv
      have hb : t.byte = s.byte := by rw [g1.trans g3]
      exact ⟨by rw [hb]; exact g1.trans g3, fun _ => hb, fun c => Nat.le_trans (g2 c) (g4 c)⟩
    · obtain ⟨g3, g4⟩ := keepsSamplerFrame_sampleBits 8 u v true hv
      simp only [Host.Outcome.next.injEq, Prod.mk.injEq] at h3
      obtain ⟨rfl, rfl⟩ := h3
      refine ⟨?_, by simp, fun c => Nat.le_trans (g2 c) (g4 c)⟩
      have h5 := g1.trans g3
      unfold SamplerFrame at *
      unfold completeByte
      rw [h5]

end Sys2Proof.Machine
end

