-- ==== Sys2Proof/Machine/Records.lean ====
section
/-! DEFINITION. The packed layouts of the records (30_encoding.md R63, R64). No operation packs a record; the layouts are
for whoever builds ports (D19). -/

namespace Sys2Proof.Machine

/-- `{sample, dir, mosi, miso}`, high to low, SAMPLE_W + 3 bits with SAMPLE_W = 64 (R63). -/
def BitMarker.pack (m : BitMarker) : BitVec 67 :=
  BitVec.ofNat 64 m.sample ++ BitVec.ofNat 1 m.dir.code ++ BitVec.ofBool m.mosi ++ BitVec.ofBool m.miso

/-- `{mk[0], .., mk[7]}`, high to low. -/
def packMarks (v : Vector BitMarker 8) : BitVec 536 :=
  v[0].pack ++ v[1].pack ++ v[2].pack ++ v[3].pack ++ v[4].pack ++ v[5].pack ++ v[6].pack ++ v[7].pack

/-- `{first_sample, last_sample, mosi, miso, mk[0], .., mk[7]}`, high to low (R64). -/
def SampledByte.pack (b : SampledByte) : BitVec 680 :=
  BitVec.ofNat 64 b.firstSample ++ BitVec.ofNat 64 b.lastSample ++ b.mosi ++ b.miso ++ packMarks b.marks

end Sys2Proof.Machine
end

