-- ==== Sys2Proof/Tests/Slice0.lean ====
section
/-! SUPPORT. Tests: expected values are those of spec/95_test_vectors.md (traces T1, T2, T3 and section 3) or of the tables of
30_encoding.md R69 and 44_downstream_context.md R145; and a witness for the hypotheses of each statement. -/

namespace Sys2Proof.Tests

open Sys2Proof.Machine

/-! ### The traces of 95_test_vectors.md section 2, in run-length form -/

/-- `v*n` repeated pulses: level 1 then level 0, one sample each. -/
def pulses (n : Nat) : List (Bool × Nat) := (List.replicate n [(true, 1), (false, 1)]).flatten

def traceT1 : List Instant :=
  captureOfLines (lineOfRuns ([(false, 4)] ++ pulses 16 ++ [(false, 2)]))
    (lineOfRuns [(true, 2), (false, 34), (true, 2)])
    (lineOfRuns [(false, 7), (true, 2), (false, 18), (true, 8), (false, 3)])
    (lineOfRuns [(false, 11), (true, 6), (false, 21)])

def traceT2 : List Instant :=
  captureOfLines (lineOfRuns ([(true, 3)] ++ pulses 11 ++ [(true, 2)]))
    (lineOfRuns [(true, 2), (false, 23), (true, 2)])
    (lineOfRuns [(false, 4), (true, 4), (false, 4), (true, 2), (false, 2), (true, 2), (false, 4), (true, 2), (false, 3)])
    (lineOfRuns [(false, 8), (true, 4), (false, 4), (true, 4), (false, 7)])

def traceT3 : List Instant :=
  captureOfLines (lineOfRuns ([(false, 1)] ++ pulses 4 ++ [(true, 1), (false, 7)] ++ pulses 7 ++ [(true, 2), (false, 4)]))
    (lineOfRuns [(false, 4), (true, 6), (false, 3), (true, 3), (false, 17), (true, 2), (false, 2)])
    (lineOfRuns [(false, 2), (true, 2), (false, 2), (true, 2), (false, 9), (true, 2), (false, 2), (true, 4), (false, 4),
      (true, 2), (false, 6)])
    (lineOfRuns [(false, 27), (true, 6), (false, 4)])

def t1 : State := startOf traceT1 []

def t2 : State := startOf traceT2 []

def t3 : State := startOf traceT3 []

/-- A state inside the window `(a, d)` with the four cursors given. -/
def inWindow (s : State) (a d : Nat) (p : Cursors) : State := { s with st := .inTxn, selLow := a, selHigh := d, cur := p }

/-- One value of the next state. -/
def got {α : Type} (r : Res State) (f : State → α) : Option α :=
  match r with
  | .next t => some (f t)
  | .fault _ => none
  | .refused _ => none

/-- The name of the refusal. -/
def refusal (r : Res State) : Option Refusal :=
  match r with
  | .next _ => none
  | .fault _ => none
  | .refused x => some x

/-- The name of the fault. -/
def faultOf (r : Res State) : Option Fault :=
  match r with
  | .next _ => none
  | .fault x => some x
  | .refused _ => none

theorem test_trace_lengths : traceT1.length = 38 ∧ traceT2.length = 27 ∧ traceT3.length = 37 := by decide

/-! ### Ill-formed terms are refused by WellFormed, one for each check -/

theorem test_wf_seek_index_too_wide : (Instr.seek .sck (2 ^ 64)).wellFormed = false := by decide

theorem test_wf_opentxn_index_too_wide : (Instr.opentxn 1 (2 ^ 64)).wellFormed = false := by decide

theorem test_wf_emitmark_index_too_wide : (Instr.emitmark (2 ^ 64) .up .sck).wellFormed = false := by decide

theorem test_wf_progress_index_too_wide : (Instr.progress (2 ^ 64)).wellFormed = false := by decide

theorem test_wf_opentxn_empty_window : (Instr.opentxn 5 5).wellFormed = false := by decide

theorem test_wf_halt_none : (Instr.halt .none).wellFormed = false := by decide

theorem test_wf_start_marker_on_clock : (Instr.emitmark 2 .start .sck).wellFormed = false := by decide

theorem test_wf_accepts : (Instr.opentxn 2 36).wellFormed = true ∧ (Instr.halt .cancelled).wellFormed = true ∧
    (Instr.emitmark 2 .start .csn).wellFormed = true := by decide

/-! ### Decoding: numbers of R69, operand codes of R61, R66, R67; command bytes of R145 -/

theorem test_decode_primitives :
    decode 0b00000010_00000001 = .ok (.bitstate .mosi) ∧
    decode 0b00000001_00000010 = .ok (.nextedge .csn) ∧
    decode 0b101_00000011_00000011 = .ok (.seek .miso 5) ∧
    decode 0b00000000_00000100 = .ok (.peekedge .sck) ∧
    decode 0b00000011_00000101 = .ok (.moreedges .miso) := by decide

theorem test_decode_sampler :
    decode 0b01000 = .ok .advsck ∧ decode 0b01001 = .ok .sync ∧ decode 0b01010 = .ok .samplebit ∧
    decode 0b00000001_00001011 = .ok (.samplebyte true) ∧ decode 0b01011 = .ok (.samplebyte false) := by decide

theorem test_decode_segmenter :
    decode 0b10000 = .ok .findsel ∧
    decode 0x24_0000_0000_0000_0002_0011 = .ok (.opentxn 2 36) ∧
    decode 0b10010 = .ok .collect ∧ decode 0b10011 = .ok .pushbyte ∧ decode 0b10100 = .ok .closetxn ∧
    decode 0b00000001_00010101 = .ok (.halt .cancelled) ∧ decode 0b00000010_00010101 = .ok (.halt .exhausted) ∧
    decode 0b10110 = .ok .run := by decide

theorem test_decode_outputs :
    decode 0b100100_00010101_00011000 = .ok (.emitmark 36 .stop .csn) ∧
    decode 0b11001 = .ok .emittxn ∧ decode 0b100100_00000000_00011010 = .ok (.progress 36) := by decide

theorem test_decode_commands :
    decode 0b10000000_00011111 = .ok (.rRegister 0x1F) ∧ decode 0b10000000_00100000 = .ok (.wRegister 0) ∧
    decode 0b10000000_01100001 = .ok .rRxPayload ∧ decode 0b10000000_10100000 = .ok .wTxPayload ∧
    decode 0b10000000_11100001 = .ok .flushTx ∧ decode 0b10000000_11100010 = .ok .flushRx ∧
    decode 0b10000000_11100011 = .ok .reuseTxPl ∧ decode 0b10000000_01010000 = .ok .activate ∧
    decode 0b10000000_01100000 = .ok .rRxPlWid ∧ decode 0b10000000_10110000 = .ok .wTxPayloadNoack ∧
    decode 0b10000000_11111111 = .ok .nop ∧ decode 0b10000000_10101101 = .ok (.wAckPayload 5) := by decide

theorem test_decode_rejects_by_name :
    decode 0b00110 = .bad .reservedNumber ∧ decode 0b00100000_00000001 = .bad .reservedBits ∧
    decode 0b00000011_00010101 = .bad .unusedCode ∧ decode 0b00011000_00011000 = .bad .unusedCode ∧
    decode 0b10000000_10100111 = .bad (.undefinedCommand 0xA7) ∧ decode 0b1_00000000_00001000 = .bad .reservedBits := by
  decide

/-- The table's own words: numbers of R69 and bytes of R145 in one byte. -/
theorem test_table_words :
    decodeTableWord 8 0x01 = some (.bitstate .sck) ∧ decodeTableWord 8 0x1A = some (.progress 0) ∧
    decodeTableWord 8 0x00 = some (.rRegister 0) ∧ decodeTableWord 8 0x3F = some (.wRegister 0x1F) ∧
    decodeTableWord 8 0xA8 = some (.wAckPayload 0) ∧ decodeTableWord 8 0x40 = none := by decide

theorem test_step_runs_table_word :
    got (step (State.reset.withFetchWord 8 0x02)) (fun t => t.cur.sck) = some 1 ∧
    got (step (State.reset.withFetchWord 8 0x16)) (fun t => t.st) = some .halted ∧
    got (step (State.reset.withFetchWord 8 0x13)) (fun t => t.out.length) = some 24 := by decide

/-! ### Codes and packed records -/

theorem test_codes :
    CtrlState.halted.code = 4 ∧ HaltCause.exhausted.code = 2 ∧ EdgeDir.rising.code = 1 ∧ MarkKind.stop.code = 5 := by
  decide

theorem test_pack_marker : (BitMarker.mk 4 .rising false true).pack = 0b100_1_0_1 := by decide

/-! ### Cursor primitives (95_test_vectors.md 3.1) -/

theorem test_bitstate_on_edge :
    got (exec (.bitstate .sck) { t1 with cur := ⟨4, 0, 0, 0⟩ }) State.result = some (.level true) ∧
    got (exec (.bitstate .mosi) { t1 with cur := ⟨0, 0, 9, 0⟩ }) State.result = some (.level false) := by decide

theorem test_nextedge : got (exec (.nextedge .mosi) { t1 with cur := ⟨0, 0, 9, 0⟩ }) State.cur = some ⟨0, 0, 27, 0⟩ := by
  decide

theorem test_nextedge_refused :
    refusal (exec (.nextedge .sck) { t1 with cur := ⟨35, 0, 0, 0⟩ }) = some .noFurtherEdge := by decide

theorem test_seek_last_sample : got (exec (.seek .sck 37) { t1 with cur := ⟨36, 0, 0, 0⟩ }) (fun t => t.cur.sck) = some 37 := by
  decide

theorem test_seek_refused :
    refusal (exec (.seek .sck 7) { t1 with cur := ⟨8, 0, 0, 0⟩ }) = some .seekBackwards ∧
    refusal (exec (.seek .sck 38) t1) = some .seekPastEnd := by decide

theorem test_peekedge :
    got (exec (.peekedge .csn) { t1 with cur := ⟨0, 2, 0, 0⟩ }) (fun t => (t.result, t.cur.csn)) = some (.edge 36, 2) := by
  decide

theorem test_moreedges :
    got (exec (.moreedges .sck) { t1 with cur := ⟨34, 0, 0, 0⟩ }) State.result = some (.more true) ∧
    got (exec (.moreedges .sck) { t1 with cur := ⟨35, 0, 0, 0⟩ }) State.result = some (.more false) := by decide

/-! ### Sampler (3.2) -/

theorem test_advsck_ok :
    got (exec .advsck (inWindow t1 2 36 ⟨34, 34, 34, 34⟩)) (fun t => (t.cur, t.result)) = some (⟨35, 34, 34, 34⟩, .ok) := by
  decide

theorem test_advsck_edge_on_deassertion_fails :
    got (exec .advsck (inWindow t2 2 25 ⟨24, 23, 23, 23⟩)) (fun t => (t.cur, t.result)) = some (⟨25, 25, 25, 25⟩, .fail) := by
  decide

theorem test_sync : got (exec .sync (inWindow t1 2 36 ⟨8, 6, 6, 6⟩)) State.cur = some ⟨8, 8, 8, 8⟩ := by decide

theorem test_samplebit_falling_mode :
    got (exec .samplebit { inWindow t2 2 25 ⟨2, 2, 2, 2⟩ with fall := true })
      (fun t => (t.marks[0], t.mosiAcc, t.fall)) = some (⟨4, .falling, true, false⟩, 1, false) := by decide

theorem test_samplebit_shifts_left :
    got (exec .samplebit { inWindow t1 2 36 ⟨18, 16, 16, 16⟩ with bitIdx := 7, mosiAcc := 0b0010000, misoAcc := 0b0000111 })
      (fun t => (t.marks[7], t.mosiAcc, t.misoAcc)) = some (⟨18, .rising, false, false⟩, 0x20, 0x0E) := by decide

theorem test_samplebyte_first :
    got (exec (.samplebyte true) (inWindow t1 2 36 ⟨2, 2, 2, 2⟩))
      (fun t => (t.result, t.byte.mosi, t.byte.miso, t.byte.firstSample, t.byte.lastSample)) =
      some (.word, 0x20, 0x0E, 4, 18) := by decide

theorem test_samplebyte_abandons_three_bits :
    got (exec (.samplebyte false) (inWindow t2 2 25 ⟨17, 17, 17, 17⟩)) (fun t => (t.result, t.cur, t.bitIdx)) =
      some (.endOfTxn, ⟨25, 25, 25, 25⟩, 2) := by decide

/-! ### Segmenter (3.3) -/

theorem test_findsel_skips_partial_window : got (exec .findsel t3) State.result = some (.window 10 13) := by decide

theorem test_findsel_unterminated_window_halts :
    got (exec .findsel { t3 with cur := ⟨33, 33, 33, 33⟩ }) (fun t => (t.st, t.haltCause)) = some (.halted, .exhausted) := by
  decide

theorem test_opentxn :
    got (exec (.opentxn 2 36) t1) (fun t => (t.st, t.cur, t.rcount, t.first, t.out)) =
      some (.inTxn, ⟨2, 2, 2, 2⟩, 0, true, [.mark 2 .start .csn]) := by decide

theorem test_collect_byte :
    got (exec .collect { inWindow t1 2 36 ⟨2, 2, 2, 2⟩ with first := true }) (fun t => (t.st, t.byte.mosi)) =
      some (.byteDone, 0x20) := by decide

theorem test_collect_end :
    got (exec .collect { inWindow t1 2 36 ⟨34, 34, 34, 34⟩ with first := false }) (fun t => (t.st, t.cur.csn)) =
      some (.txnDone, 36) := by decide

theorem test_pushbyte_33rd :
    got (exec .pushbyte { t1 with st := .byteDone, txn := List.replicate 32 SampledByte.zero }) State.rcount = some 33 := by
  decide

theorem test_pushbyte_34th :
    got (exec .pushbyte { t1 with st := .byteDone, txn := List.replicate 33 SampledByte.zero })
      (fun t => (t.rcount, t.out.length, t.first)) = some (33, 24, false) := by decide

theorem test_closetxn_empty :
    got (exec .closetxn { t3 with st := .txnDone, selLow := 10, selHigh := 13, cur := ⟨13, 13, 13, 13⟩ })
      (fun t => (t.st, t.out)) =
      some (.idle, [.mark 13 .stop .csn, .txn ⟨0, [], 10, 13⟩, .progress 13]) := by decide

theorem test_halt : got (exec (.halt .cancelled) t1) (fun t => (t.st, t.haltCause)) = some (.halted, .cancelled) := by decide

theorem test_halted_is_stuck :
    faultOf (exec (.bitstate .sck) { t1 with st := .halted }) = some .halted ∧
    faultOf (step { t1 with st := .halted }) = some .halted := by decide

theorem test_pushbyte_in_idle_refused : refusal (exec .pushbyte t1) = some .wrongControlState := by decide

theorem test_run_t1 :
    got (exec .run t1) (fun t => (t.st, t.haltCause, t.cur, t.out.length)) =
      some (.halted, .exhausted, ⟨36, 36, 36, 36⟩, 52) := by decide

theorem test_run_t3_cancelled_after_first_window :
    got (exec .run { t3 with cancelDraws := [false, true] }) (fun t => (t.haltCause, t.cur.csn, t.out)) =
      some (.cancelled, 13, [.mark 10 .start .csn, .mark 13 .stop .csn, .txn ⟨0, [], 10, 13⟩, .progress 13]) := by decide

/-! ### Outputs -/

theorem test_emitmark : got (exec (.emitmark 2 .start .csn) t1) State.out = some [.mark 2 .start .csn] := by decide

theorem test_emittxn :
    got (exec .emittxn { t1 with st := .txnDone, selLow := 2, selHigh := 36 }) State.out = some [.txn ⟨0, [], 2, 36⟩] := by
  decide

theorem test_progress : got (exec (.progress 36) t1) State.out = some [.progress 36] := by decide

theorem test_markers_of_third_bit :
    markersOfBit ⟨8, .rising, true, false⟩ = [.mark 8 .up .sck, .mark 8 .one .mosi, .mark 8 .zero .miso] := by decide

/-! ### The stage after the block (95_test_vectors.md section 4) -/

theorem test_classify :
    classify 0x1F = .rRegister ∧ classify 0x40 = .undefined ∧ classify 0xA7 = .undefined ∧ classify 0xAF = .wAckPayload ∧
    classify 0xB1 = .undefined ∧ classify 0xFE = .undefined ∧ classify 0xFF = .nop := by decide

theorem test_command_register_and_pipe :
    got (exec (.wRegister 0x1F) t1) State.result = some (.classified .wRegister (some .undefinedRegister) none) ∧
    got (exec (.wAckPayload 5) t1) State.result = some (.classified .wAckPayload none (some 5)) := by decide

/-- A byte of T1's Transaction, with its values and span only. -/
def plainByte (mosi miso : Byte) (p q : Nat) : SampledByte := ⟨mosi, miso, p, q, Vector.replicate 8 BitMarker.zero⟩

def handedOverT1 : State :=
  { t1 with out := [.txn ⟨2, [plainByte 0x20 0x0E 4 18, plainByte 0x0F 0x00 20 34], 2, 36⟩] }

/-- Assembling T1's Transaction: CommandFrame 2 to 19, DataFrame 19 to 36 with one byte 0x0F. -/
theorem test_wRegister_assembles_t1 :
    got (exec (.wRegister 0) handedOverT1) (fun t => (t.down.frames, t.down.commits)) =
      some ([.command ⟨0x20, 0x0E, 2, 19, false⟩,
        .data ⟨1, .hostToDevice, 19, 36, .inline [0x0F] [], false⟩], 1) := by decide

theorem test_wRegister_decodes_t1_payload :
    got (exec (.wRegister 0) handedOverT1) (fun t => t.down.decoded.map DecodedCommand.payload) = some (some [0x0F]) := by
  decide

/-- T3's second Transaction: opcode byte 0xB2, undefined, one CommandFrame over the whole window, after an empty one. -/
theorem test_undefined_command_makes_a_frame :
    got (step { t3 with
      out := [.txn ⟨0, [], 10, 13⟩, .txn ⟨1, [plainByte 0xB2 0x07 17 31], 16, 33⟩]
      issue := [packCommand 0xB2] }) (fun t => (t.down.frames, t.down.assembled)) =
      some ([.command ⟨0xB2, 0x07, 16, 33, true⟩], 2) := by decide

/-! ### The closed form and the circuit on T1 and T2 -/

theorem test_sampling_points_t2 : samplingPoints traceT2 2 25 = [4, 5, 7, 9, 11, 13, 15, 17, 19, 21, 23] := by decide

theorem test_windows_t3 : windowsOf traceT3 = [(10, 13), (16, 33)] := by decide

theorem test_circuit_t2 :
    (perSampleTransactions traceT2).map (fun t => t.bytes.map fun b => (b.mosi, b.miso, b.firstSample, b.lastSample)) =
      [[(0xE5, 0x19, 4, 17)]] := by decide

/-! ### Witnesses: for each statement with hypotheses, a state and operands that meet all of them together, at the ends of
their ranges where there are several clauses -/

theorem got_exists {α : Type} {r : Res State} {f : State → α} {a : α} (h : got r f = some a) :
    ∃ t, r = .next t ∧ f t = a := by
  cases r with
  | next t => exact ⟨t, rfl, Option.some.inj h⟩
  | fault _ => cases h
  | refused _ => cases h

theorem next_exists {r : Res State} (h : got r (fun _ => ()) = some ()) : ∃ t, r = .next t :=
  let ⟨t, ht, _⟩ := got_exists h
  ⟨t, ht⟩

theorem witness_BitstateAnswersLevelAtCursor :
    (Running t1 ∧ t1.cur.get .sck < t1.size) ∧
    Running { t1 with cur := ⟨37, 37, 37, 37⟩ } ∧ 37 < t1.size := by decide

theorem witness_NextedgeMovesCursorToNextEdge :
    Running t1 ∧ IsNextEdge t1.capture .sck (t1.cur.get .sck) 4 ∧ NoEdgeAfter t1.capture .sck 35 :=
  ⟨by decide, (nextEdge_eq_some_iff ..).mp (by decide), (nextEdge_eq_none_iff ..).mp (by decide)⟩

theorem witness_SeekMovesCursorForwardWithinCapture :
    Running { t1 with cur := ⟨8, 0, 0, 0⟩ } ∧ (8 ≤ 8 ∧ 8 ≤ t1.size - 1) ∧ (8 ≤ 37 ∧ 37 ≤ t1.size - 1) ∧ 7 < 8 ∧
      (8 ≤ 38 ∧ t1.size - 1 < 38) := by decide

theorem witness_PeekedgeAnswersNextEdgeWithoutMoving :
    Running t1 ∧ IsNextEdge t1.capture .csn 2 36 ∧ NoEdgeAfter t1.capture .csn 36 :=
  ⟨by decide, (nextEdge_eq_some_iff ..).mp (by decide), (nextEdge_eq_none_iff ..).mp (by decide)⟩

theorem witness_MoreedgesTellsWhetherAnEdgeIsLeft : Running t1 := by decide

/-- OK: the edge 35 before the deassertion sample 36; FAIL: none after 35. -/
theorem witness_AdvsckStopsAtDeassertion :
    (inWindow t1 2 36 ⟨34, 34, 34, 34⟩).st = .inTxn ∧ (∀ c, (Cursors.all 35).get c ≤ 36) ∧ 36 ≤ t1.size - 1 ∧ 1 ≤ t1.size ∧
      (IsNextEdge t1.capture .sck 34 35 ∧ 35 < 36) ∧ ∀ e, IsNextEdge t1.capture .sck 35 e → 36 ≤ e :=
  ⟨by decide, fun c => by cases c <;> decide, by decide, by decide,
    ⟨(nextEdge_eq_some_iff ..).mp (by decide), by decide⟩, fun _ he => he.1⟩

theorem witness_SyncBringsLinesToClock :
    (inWindow t1 2 36 ⟨8, 6, 6, 6⟩).st = .inTxn ∧ (∀ c, (Cursors.mk 8 6 6 6).get c ≤ 8) ∧ 8 < t1.size :=
  ⟨by decide, fun c => by cases c <;> decide, by decide⟩

theorem ready_of (s : State) (a d p : Nat) (h : d < s.size) (h1 : a ≤ p) (h2 : p < d) :
    SamplerReady (inWindow s a d (Cursors.all p)) :=
  ⟨rfl, h, h2, fun c => by cases c <;> exact h1, fun c => by cases c <;> exact Nat.le_refl _⟩

/-- FALL = 0; FALL = 1 with the falling edge 4 in the window; FALL = 1 with the next edge on the deassertion sample 25. -/
theorem witness_SamplebitRecordsAndShiftsOneBit :
    (SamplerReady (inWindow t1 2 36 (Cursors.all 4)) ∧ (inWindow t1 2 36 (Cursors.all 4)).fall = false) ∧
    (SamplerReady { inWindow t2 2 25 (Cursors.all 2) with fall := true } ∧ IsNextEdge t2.capture .sck 2 4 ∧ 4 < 25) ∧
    (SamplerReady { inWindow t2 2 25 (Cursors.all 24) with fall := true } ∧
      ∀ e, IsNextEdge t2.capture .sck 24 e → 25 ≤ e) := by
  have h1 := ready_of t2 2 25 2 (by decide) (by decide) (by decide)
  have h2 := ready_of t2 2 25 24 (by decide) (by decide) (by decide)
  exact ⟨⟨ready_of t1 2 36 4 (by decide) (by decide) (by decide), rfl⟩,
    ⟨⟨h1.1, h1.2, h1.3, h1.4, h1.5⟩, (nextEdge_eq_some_iff ..).mp (by decide), by decide⟩,
    ⟨⟨h2.1, h2.2, h2.3, h2.4, h2.5⟩, fun _ he => he.1⟩⟩

/-- Exactly eight points left, and seven. -/
theorem witness_SamplebyteAnswersWordOfNextEightPoints :
    (SamplerReady (inWindow t1 2 36 (Cursors.all 18)) ∧ 8 = (pointsFrom traceT1 false 18 36).length) ∧
    (SamplerReady (inWindow t1 2 36 (Cursors.all 20)) ∧ (pointsFrom traceT1 false 20 36).length = 7) :=
  ⟨⟨ready_of t1 2 36 18 (by decide) (by decide) (by decide), by decide⟩,
    ⟨ready_of t1 2 36 20 (by decide) (by decide) (by decide), by decide⟩⟩

theorem witness_CompletedByteIsBoundedByItsMarkers :
    SamplerReady (inWindow t1 2 36 (Cursors.all 2)) ∧
      ∃ t, exec (.samplebyte true) (inWindow t1 2 36 (Cursors.all 2)) = .next t ∧ t.result = .word :=
  ⟨ready_of t1 2 36 2 (by decide) (by decide) (by decide), got_exists (by decide)⟩

/-- The same capture with its host-to-device line inverted. -/
def invertMosi (w : List Instant) : List Instant := w.map fun x => { x with mosi := !x.mosi }

theorem witness_DataLinesNeverSteerTheSampler :
    SamplerReady (inWindow t1 2 36 (Cursors.all 2)) ∧ (invertMosi traceT1).length = traceT1.length ∧
      (∀ p, highAt (invertMosi traceT1) .sck p = highAt traceT1 .sck p) ∧
      (∀ p, highAt (invertMosi traceT1) .csn p = highAt traceT1 .csn p) := by
  refine ⟨ready_of t1 2 36 2 (by decide) (by decide) (by decide), List.length_map _, fun p => ?_, fun p => ?_⟩ <;>
    simp only [highAt, sampleAt, invertMosi, List.getElem?_map] <;> cases traceT1[p]? <;> rfl

/-- T1's window; and no window after its deassertion sample. -/
theorem witness_FindselAnswersNextWindowOrHalts :
    (Running t1 ∧ t1.st = .idle ∧ IsNextWindow t1.capture t1.cur.csn 2 36) ∧
    (Running { t1 with cur := Cursors.all 36 } ∧ ¬∃ a d, IsNextWindow t1.capture 36 a d) := by
  refine ⟨⟨by decide, rfl, (findWindow_eq_some_iff t1 2 36).mp (by decide)⟩, by decide, fun ⟨a, d, h⟩ => ?_⟩
  have h1 := (findWindow_eq_some_iff { t1 with cur := Cursors.all 36 } a d).mpr h
  rw [show findWindow { t1 with cur := Cursors.all 36 } = none by decide] at h1
  cases h1

theorem witness_OpentxnStartsTransactionAtAssertion :
    t1.st = .idle ∧ (∀ c, t1.cur.get c ≤ 2) ∧ 2 < t1.size := ⟨rfl, fun c => by cases c <;> decide, by decide⟩

theorem witness_CollectIsOneSamplerCall : SamplerReady (inWindow t1 2 36 (Cursors.all 34)) :=
  ready_of t1 2 36 34 (by decide) (by decide) (by decide)

/-- With 32 entries in use, and with 33. -/
theorem witness_PushbyteEmitsMarkersAndRetainsUpTo33 :
    Running { t1 with st := .byteDone, txn := List.replicate 32 SampledByte.zero } ∧
    Running { t1 with st := .byteDone, txn := List.replicate 33 SampledByte.zero } := by decide

theorem witness_ClosetxnHandsOverAndReturnsToIdle :
    (∀ c, (Cursors.all 36).get c ≤ 36) ∧ 36 < t1.size ∧ (List.replicate 33 SampledByte.zero).length ≤ 33 :=
  ⟨fun c => by cases c <;> decide, by decide, by decide⟩

theorem witness_HaltIsFinal :
    (Running t1 ∧ t1.st = .idle ∧ HaltCause.exhausted ≠ .none) ∧
    ({ t1 with st := .halted }.capture ≠ [] ∧ { t1 with st := .halted }.issue = [] ∧ isBlock .run = true) := by decide

theorem witness_RunAlwaysHalts : t1.st = .idle ∧ (∀ c, t1.cur.get c ≤ t1.cur.csn) ∧ t1.cur.csn < t1.size :=
  ⟨rfl, fun c => by cases c <;> decide, by decide⟩

theorem witness_CancellationIsReadAtTheTopOnly :
    (Running { t1 with cancelDraws := [true] } ∧ t1.issue = [] ∧ t1.st = .idle) ∧ (∃ t, step t1 = .next t) ∧
      ∃ t, exec .findsel t1 = .next t :=
  ⟨by decide, next_exists (by decide), next_exists (by decide)⟩

/-- A transition from each of the four states that have one, and from IDLE by each of its three rows. -/
theorem witness_ControlFollowsTransitionTable :
    (∃ t, step { t1 with cancelDraws := [true] } = .next t ∧ t.haltCause = .cancelled) ∧
    (∃ t, step { t1 with cur := Cursors.all 36 } = .next t ∧ t.haltCause = .exhausted) ∧
    (∃ t, step t1 = .next t ∧ t.st = .inTxn) ∧
    (∃ t, step (inWindow t1 2 36 (Cursors.all 34)) = .next t ∧ t.st = .txnDone) ∧
    (∃ t, step { t1 with st := .byteDone } = .next t ∧ t.st = .inTxn) ∧
    (∃ t, step { t1 with st := .txnDone, selHigh := 36, cur := Cursors.all 36 } = .next t ∧ t.st = .idle) :=
  ⟨got_exists (by decide), got_exists (by decide), got_exists (by decide), got_exists (by decide), got_exists (by decide),
    got_exists (by decide)⟩

theorem witness_EmitmarkAppendsOneMarker :
    Running t1 ∧ t1.issue = [] ∧ ∃ t, step t1 = .next t ∧ t.out = [.mark 2 .start .csn] :=
  ⟨by decide, rfl, got_exists (by decide)⟩

theorem witness_EmittxnAppendsTheTransaction :
    Running { t1 with st := .txnDone, txn := List.replicate 33 SampledByte.zero } ∧
      (List.replicate 33 SampledByte.zero).length ≤ 33 := by decide

theorem witness_ProgressAppendsOneReport : Running t1 := by decide

theorem witness_OperationsAreRefusedInOtherControlStates :
    needsState .pushbyte = some .byteDone ∧ Running t1 ∧ t1.st ≠ .byteDone := by decide

theorem witness_NothingRunsWithoutCapture : isBlock .run = true ∧ State.reset.capture = [] := by decide

theorem witness_SamplerAndPrimitivesFrame :
    (∃ t, exec (.seek .sck 37) t1 = .next t) ∧ ∃ t, exec (.samplebyte true) (inWindow t1 2 36 (Cursors.all 2)) = .next t :=
  ⟨next_exists (by decide), next_exists (by decide)⟩

theorem witness_CollectAndRunFrame :
    (∃ t, exec .collect (inWindow t1 2 36 (Cursors.all 2)) = .next t) ∧ ∃ t, exec .run t1 = .next t :=
  ⟨next_exists (by decide), next_exists (by decide)⟩

theorem witness_StepNeverWritesTheCapture : ∃ t, step t1 = .next t := next_exists (by decide)

theorem witness_CursorsOnlyMoveForward :
    (∃ t, step { t1 with issue := [packWord 0b00011 0 37 0] } = .next t ∧ t.cur.sck = 37) ∧
      ∃ t, exec (.nextedge .sck) t1 = .next t :=
  ⟨got_exists (by decide), next_exists (by decide)⟩

theorem witness_OutputIsAppendOnly : ∃ t, step t1 = .next t ∧ t.out = [.mark 2 .start .csn] := got_exists (by decide)

theorem witness_StepKeepsBufferBound :
    ∃ t, step { t1 with st := .byteDone, txn := List.replicate 33 SampledByte.zero } = .next t ∧ t.txn.length = 33 :=
  got_exists (by decide)

theorem witness_BlockIgnoresTheStageAfterIt : isBlock .closetxn = true := rfl

/-- Inside T1's window, before its first byte. -/
def openedT1 : State := { inWindow t1 2 36 (Cursors.all 2) with first := true }

theorem openedT1_inv : BlockInv openedT1 where
  together := rfl
  cursorInCapture := by decide
  causeWhenHalted := by decide
  bufferBound := by decide
  outGood := fun _ h => nomatch h
  idleCursor := fun h => nomatch h
  windowOpen := fun _ => ⟨by decide, (nextEdge_eq_some_iff ..).mp (by decide), by decide⟩
  cursorInWindow := fun _ => by decide
  landed := fun h => nomatch h
  firstFresh := fun _ _ => ⟨rfl, fun _ => rfl⟩
  clockHigh := by decide
  retainedGood := fun _ _ h => nomatch h
  byteGood := fun h => nomatch h

theorem witness_StepKeepsBlockInv :
    BlockInv openedT1 ∧ openedT1.issue = [] ∧ ∃ t, step openedT1 = .next t ∧ t.st = .byteDone :=
  ⟨openedT1_inv, rfl, got_exists (by decide)⟩

theorem witness_BlockNeverStopsBeforeHalted : BlockInv openedT1 ∧ Running openedT1 ∧ openedT1.issue = [] :=
  ⟨openedT1_inv, by decide, rfl⟩

theorem witness_RunIsRepeatedSteps : t1.issue = [] ∧ ∃ t, exec .run t1 = .next t := ⟨rfl, next_exists (by decide)⟩

theorem witness_RunEmitsTheClosedForm : traceT1 ≠ [] ∧ ∀ b ∈ [false, false], b = false := by decide

/-- A capture is not empty: the one hypothesis of CancelledRunEmitsAPrefix, PerSampleCircuitHandsOverTheSameTransactions,
MarkersAndProgressIncrease and FallingMarkerOnlyFirstAfterHighClock. -/
theorem witness_CancelledRunEmitsAPrefix : traceT3 ≠ [] := by decide

theorem witness_PerSampleCircuitHandsOverTheSameTransactions : traceT2 ≠ [] := by decide

theorem witness_MarkersAndProgressIncrease : traceT3 ≠ [] := by decide

theorem witness_FallingMarkerOnlyFirstAfterHighClock : traceT2 ≠ [] := by decide

/-- T1 with a clock pulse and a data pulse on its first sample, before the window. -/
def disturbedT1 : List Instant := ⟨true, true, true, true⟩ :: traceT1.drop 1

theorem disturbedT1_after_start (c : Channel) (p : Nat) (h : 1 ≤ p) : highAt disturbedT1 c p = highAt traceT1 c p := by
  cases p with
  | zero => cases h
  | succ p => simp [highAt, sampleAt, disturbedT1]

theorem witness_OutputIgnoresSamplesOutsideWindows :
    disturbedT1 ≠ traceT1 ∧ disturbedT1.length = traceT1.length ∧
    (∀ p, highAt disturbedT1 .csn p = highAt traceT1 .csn p) ∧
    (∀ x ∈ windowsOf traceT1, ∀ p, x.1 ≤ p → p < x.2 → highAt disturbedT1 .sck p = highAt traceT1 .sck p) ∧
    (∀ x ∈ windowsOf traceT1, ∀ p, x.1 < p → p < x.2 →
      highAt disturbedT1 .mosi p = highAt traceT1 .mosi p ∧ highAt disturbedT1 .miso p = highAt traceT1 .miso p) := by
  have hw : windowsOf traceT1 = [(2, 36)] := by decide
  refine ⟨by decide, by decide, fun p => ?_, ?_, ?_⟩
  · cases p with
    | zero => decide
    | succ p => exact disturbedT1_after_start _ _ (Nat.succ_pos p)
  · simp only [hw, List.mem_singleton, forall_eq]
    exact fun p h _ => disturbedT1_after_start _ _ (Nat.le_trans (by decide) h)
  · simp only [hw, List.mem_singleton, forall_eq]
    exact fun p h _ => ⟨disturbedT1_after_start _ _ (Nat.le_trans (by decide) h),
      disturbedT1_after_start _ _ (Nat.le_trans (by decide) h)⟩

theorem witness_DecodeEncodeGivesInstructionBack : (Instr.opentxn 0 (2 ^ 64 - 1)).fits = true := by decide

theorem witness_EncodeDecodeGivesWordBack : decode 0b101_00000011_00000011 = .ok (.seek .miso 5) := by decide

theorem witness_ReservedNumbersNameNoOperation :
    { t1 with issue := [0x1B] }.issue = [0x1B] ∧ fieldSmall 0x1B ≠ commandSpace ∧
      fieldNumber 0x1B ∉ [1, 2, 3, 4, 5, 8, 9, 10, 11, 16, 17, 18, 19, 20, 21, 22, 24, 25, 26] := by decide

theorem witness_StepRunsTheIssuedInstruction :
    { t1 with issue := [0x02] }.issue = [0x02] ∧ decode 0x02 = .ok (.nextedge .sck) ∧
      decodeTableWord 8 0xA8 = some (.wAckPayload 0) := by decide

/-- CONFIG and `0x1F` have no address, wherever the range lies. -/
theorem test_no_address_at_the_ends : cmdHasAddress .wRegister 0 = false ∧ cmdHasAddress .rRegister 0x1F = false := by
  have h := firstAddressRegister_bounds
  constructor <;> rw [Bool.eq_false_iff, Ne, cmdHasAddress_iff] <;> rintro ⟨-, h1, h2⟩ <;> simp at h1 h2 <;> omega

theorem witness_PayloadPresenceFollowsTheTwoLists : ∃ r, cmdHasAddress .rRegister r = true := by
  have h := firstAddressRegister_bounds
  refine ⟨BitVec.ofNat 5 Config.firstAddressRegister, (cmdHasAddress_iff _ _).mpr ⟨rfl, ?_⟩⟩
  rw [BitVec.toNat_ofNat, Nat.mod_eq_of_lt (by omega)]
  omega

theorem witness_CommandBytesAreClassifiedInEveryState :
    commandRow (.wRegister 0x1F) = some ⟨0x3F, .wRegister, some 0x1F, none⟩ := by decide

/-- A waiting Transaction of one command byte and `n` payload bytes. -/
def handedOver (mosi : Byte) (n : Nat) : State :=
  { t1 with out := [.txn ⟨0, plainByte mosi 0 4 18 :: List.replicate n (plainByte 5 6 20 34), 2, 36⟩] }

/-- One byte alone; 16 payload bytes; 17; 32. -/
theorem witness_CommandAssemblesItsTransaction :
    commandRow .wTxPayload = some ⟨0xA0, .wTxPayload, none, none⟩ ∧
    ∀ n ∈ [0, 16, 17, 32],
      waitingTransactions (handedOver 0xA0 n) =
        [⟨0, plainByte 0xA0 0 4 18 :: List.replicate n (plainByte 5 6 20 34), 2, 36⟩] ∧
      (List.replicate n (plainByte 5 6 20 34)).length ≤ 32 ∧ (plainByte 0xA0 0 4 18).mosi = 0xA0 := by decide

theorem witness_DecodingGivesThePayloadBack :
    (List.replicate 32 (plainByte 5 6 20 34)).length ≤ 32 ∧ cmdCarriesData (classify 0xA0) (cmdRegister 0xA0) = true := by
  decide

theorem witness_ClassificationFollowsTheTable :
    (Transaction.mk 0 [plainByte 0x40 0 4 18] 2 36).bytes = plainByte 0x40 0 4 18 :: [] ∧
      ([] : List SampledByte).length ≤ 32 := by decide

theorem witness_DownstreamStoresAreAppendOnly :
    ∃ t, step { handedOver 0xA0 17 with issue := [packCommand 0xA0] } = .next t ∧ t.down.extStore.length = 17 :=
  got_exists (by decide)

/-- A pair with 17 payload bytes in the ExtendedDataStore. -/
def pairInStore : Downstream :=
  ⟨1, [.command ⟨0xA0, 0, 2, 19, false⟩, .data ⟨17, .hostToDevice, 19, 36, .extended 0, false⟩], List.replicate 17 5, 1, some 0⟩

theorem witness_DecodedPairNeverChanges :
    (∃ t, step { t1 with down := pairInStore } = .next t) ∧ (∃ x, pairInStore.decodedAt 0 = some x) ∧
      ∀ f offset, pairInStore.dataFrameAt 0 = some f → f.payload = .extended offset →
        offset + f.length ≤ pairInStore.extStore.length := by
  refine ⟨next_exists (by decide), ⟨_, rfl⟩, fun f offset h1 h2 => ?_⟩
  cases h1
  cases h2
  decide

theorem witness_UndefinedCommandByteStillGoesOn :
    classify 0xA7 = .undefined ∧
    { handedOver 0xA7 32 with issue := [packCommand 0xA7] }.issue = [packCommand 0xA7] ∧
    waitingTransactions (handedOver 0xA7 32) =
      [⟨0, plainByte 0xA7 0 4 18 :: List.replicate 32 (plainByte 5 6 20 34), 2, 36⟩] := by decide

end Sys2Proof.Tests
end

-- ==== Cursor primitives: proofs ====
section
/-! PROOFS. SEEK (R83): what it answers while a run is on, one lemma per refusal, and the obligation. -/

namespace Sys2Proof.Machine

/-- While a run is on, N-1 does not underflow, so R83's `s <= N-1` says that the sample lies below N. -/
theorem Running.size_pos {s : State} (h : Running s) : 0 < s.size :=
  List.length_pos_of_ne_nil h.1

/-- A seek to a sample before the cursor. -/
theorem seekTo_backwards {s : State} {c : Channel} {p : Nat} (h : p < s.cur.get c) :
    seekTo c p s = .refused .seekBackwards :=
  if_pos h

/-- A seek that is not backwards, to a sample beyond the capture. -/
theorem seekTo_pastEnd {s : State} {c : Channel} {p : Nat} (h1 : s.cur.get c ≤ p) (h2 : s.size ≤ p) :
    seekTo c p s = .refused .seekPastEnd := by
  unfold seekTo
  rw [if_neg (Nat.not_lt.mpr h1), if_pos h2]

/-- While a run is on, the instruction SEEK is the cursor's move. -/
theorem exec_seek {s : State} (h : Running s) (c : Channel) (p : Nat) : exec (.seek c p) s = seekTo c p s :=
  requireOp_none h _

end Sys2Proof.Machine

open Sys2Proof Sys2Proof.Machine

/-- Settles O3: a run is on only with a capture that has a sample, so R83's three cases are the three branches of the
cursor's move, and the move sets one cursor. -/
theorem seekMovesCursorForwardWithinCapture : Obligations.SeekMovesCursorForwardWithinCapture := by
  intro s c p hrun
  have hsize := hrun.size_pos
  rw [exec_seek hrun]
  refine ⟨fun hfwd hin => ?_, seekTo_backwards, fun hfwd hout => seekTo_pastEnd hfwd (by omega)⟩
  exact ⟨s.setCursor c p, seekTo_forward hfwd (by omega), Cursors.get_set_same s.cur c p,
    fun c' hc => Cursors.get_set_other s.cur c c' p hc, rfl⟩

end

-- ==== Sampler: SYNC ====
section
/-! PROOFS. SYNC (R91): in IN_TXN the instruction is the three seeks of the shared operation, and the obligation. -/

namespace Sys2Proof.Machine

/-- While a run is on in IN_TXN, the instruction SYNC is the three seeks to the clock's position. -/
theorem exec_sync {s : State} (h : Running s) (hst : s.st = .inTxn) : exec .sync s = syncLines s :=
  requireOp_some h hst _

end Sys2Proof.Machine

open Sys2Proof Sys2Proof.Machine

/-- Settles O7: no guard of SYNC stops it, and each of its three seeks is forward and inside the capture. -/
theorem syncBringsLinesToClock : Obligations.SyncBringsLinesToClock := by
  intro s hst hbehind hin
  have hrun : Running s := running_of_lt_size hin (by simp [hst])
  rw [exec_sync hrun hst]
  exact syncLines_eq_next.mpr ⟨hbehind, hin, rfl⟩

end

-- ==== Sampling points ====
section
/-! PROOFS. The lists of the closed form from a cursor on: the clock edges and sampling points of a window (R98) and the
windows of a capture (R119), each unfolded at its first entry. -/

namespace Sys2Proof.Machine

/-! ### Indices after a cursor -/

/-- The values of `f` at the indices `e` with `p < e < n`, ascending. -/
def valuesAfter {α : Type} (f : Nat → Option α) (p n : Nat) : List α :=
  (List.range n).filterMap fun e => if p < e then f e else none

theorem valuesAfter_eq_nil {α : Type} {f : Nat → Option α} {p n : Nat} (h : ∀ q, p < q → q < n → f q = none) :
    valuesAfter f p n = [] := by
  refine List.filterMap_eq_nil_iff.mpr fun q hq => ?_
  split
  · exact h q ‹_› (List.mem_range.mp hq)
  · rfl

theorem valuesAfter_succ {α : Type} (f : Nat → Option α) {p n : Nat} (h : p < n) :
    valuesAfter f p (n + 1) = valuesAfter f p n ++ (f n).toList := by
  unfold valuesAfter
  rw [List.range_succ, List.filterMap_append]
  cases hf : f n <;> simp [h, hf]

/-- The first index that has a value gives the head, and the list goes on from that index. -/
theorem valuesAfter_eq_cons {α : Type} {f : Nat → Option α} {p e n : Nat} {x : α} (hp : p < e) (hn : e < n)
    (hx : f e = some x) (hnone : ∀ q, p < q → q < e → f q = none) :
    valuesAfter f p n = x :: valuesAfter f e n := by
  induction n, hn using Nat.le_induction with
  | base =>
    rw [valuesAfter_succ f hp, valuesAfter_eq_nil hnone, hx, valuesAfter_eq_nil (by omega)]
    rfl
  | succ n hn ih => rw [valuesAfter_succ f (by omega), ih, valuesAfter_succ f (by omega), List.cons_append]

/-- Indices without a value may be passed over. -/
theorem valuesAfter_skip {α : Type} {f : Nat → Option α} {p q : Nat} (n : Nat) (hpq : p ≤ q)
    (hnone : ∀ r, p < r → r ≤ q → f r = none) : valuesAfter f p n = valuesAfter f q n := by
  refine List.filterMap_congr fun r _ => ?_
  by_cases hq : q < r
  · rw [if_pos hq, if_pos (by omega)]
  · rw [if_neg hq]
    split
    · exact hnone r ‹_› (by omega)
    · rfl

/-! ### Clock edges and sampling points (R98) -/

theorem clockEdges_eq_valuesAfter (w : List Instant) (p d : Nat) :
    clockEdges w p d = valuesAfter (Option.guard fun e => edgeAt w .sck e) p d := by
  unfold clockEdges valuesAfter
  rw [← List.filterMap_eq_filter]
  refine List.filterMap_congr fun e _ => ?_
  by_cases h : p < e <;> simp [Option.guard, h]

theorem clockEdges_eq_nil {w : List Instant} {p d : Nat} (h : ∀ e, IsNextEdge w .sck p e → d ≤ e) :
    clockEdges w p d = [] := by
  rw [clockEdges_eq_valuesAfter]
  refine valuesAfter_eq_nil fun q hpq hqd => ?_
  rw [Option.guard_eq_none_iff, Bool.eq_false_iff]
  intro hq
  obtain ⟨e, he⟩ := exists_least_edge hpq hq
  have hqe : ¬ q < e := fun hlt => by simp [he.2.2 q hpq hlt] at hq
  have := h e he
  omega

theorem clockEdges_eq_cons {w : List Instant} {p e d : Nat} (h : IsNextEdge w .sck p e) (hd : e < d) :
    clockEdges w p d = e :: clockEdges w e d := by
  rw [clockEdges_eq_valuesAfter, clockEdges_eq_valuesAfter]
  obtain ⟨hp, he, hmin⟩ := h
  exact valuesAfter_eq_cons hp hd (by simp [he]) fun q h1 h2 => by simp [hmin q h1 h2]

/-- From a cursor, either no clock edge is left in the window, or the next one is the first of the list. -/
theorem clockEdges_cases (w : List Instant) (p d : Nat) :
    (clockEdges w p d = [] ∧ ∀ e, IsNextEdge w .sck p e → d ≤ e) ∨
    ∃ e, IsNextEdge w .sck p e ∧ e < d ∧ clockEdges w p d = e :: clockEdges w e d := by
  by_cases h : ∃ e, IsNextEdge w .sck p e ∧ e < d
  · obtain ⟨e, he, hd⟩ := h
    exact .inr ⟨e, he, hd, clockEdges_eq_cons he hd⟩
  · have hge : ∀ e, IsNextEdge w .sck p e → d ≤ e := fun e he => by
      by_contra hlt
      exact h ⟨e, he, by omega⟩
    exact .inl ⟨clockEdges_eq_nil hge, hge⟩

theorem mem_clockEdges {w : List Instant} {p d e : Nat} :
    e ∈ clockEdges w p d ↔ e < d ∧ p < e ∧ edgeAt w .sck e = true := by
  simp [clockEdges]

/-- The rising clock edges of a window after a cursor: the points of a SAMPLEBYTE with `first = 0` (R93, R95). -/
def risingEdges (w : List Instant) (p d : Nat) : List Nat := (clockEdges w p d).filter fun e => highAt w .sck e

theorem pointsFrom_false (w : List Instant) (p d : Nat) : pointsFrom w false p d = risingEdges w p d := rfl

theorem pointsFrom_true (w : List Instant) (p d : Nat) : pointsFrom w true p d = samplingPoints w p d := rfl

/-- From a cursor where the clock is low, the first clock edge is a rising one. -/
theorem risingEdges_of_low {w : List Instant} {p e d : Nat} (h : IsNextEdge w .sck p e) (hd : e < d)
    (hp : highAt w .sck p = false) : risingEdges w p d = e :: risingEdges w e d := by
  have he : highAt w .sck e = true := by rw [highAt_nextEdge h, hp]; rfl
  unfold risingEdges
  rw [clockEdges_eq_cons h hd, List.filter_cons_of_pos (by simpa using he)]

/-- From a cursor where the clock is high, the first clock edge is a falling one and does not count. -/
theorem risingEdges_of_high {w : List Instant} {p e d : Nat} (h : IsNextEdge w .sck p e) (hd : e < d)
    (hp : highAt w .sck p = true) : risingEdges w p d = risingEdges w e d := by
  have he : highAt w .sck e = false := by rw [highAt_nextEdge h, hp]; rfl
  unfold risingEdges
  rw [clockEdges_eq_cons h hd, List.filter_cons_of_neg (by simp [he])]

theorem risingEdges_eq_nil {w : List Instant} {p d : Nat} (h : clockEdges w p d = []) : risingEdges w p d = [] := by
  simp [risingEdges, h]

/-- From a cursor, either no rising edge is left in the window, or the list goes on from the first one. -/
theorem risingEdges_cases (w : List Instant) (p d : Nat) :
    risingEdges w p d = [] ∨ ∃ e, risingEdges w p d = e :: risingEdges w e d := by
  rcases clockEdges_cases w p d with ⟨hnil, -⟩ | ⟨e, he, hd, -⟩
  · exact .inl (risingEdges_eq_nil hnil)
  · cases hp : highAt w .sck p with
    | false => exact .inr ⟨e, risingEdges_of_low he hd hp⟩
    | true =>
      rw [risingEdges_of_high he hd hp]
      rcases clockEdges_cases w e d with ⟨hnil, -⟩ | ⟨f, hf, hfd, -⟩
      · exact .inl (risingEdges_eq_nil hnil)
      · exact .inr ⟨f, risingEdges_of_low hf hfd (by rw [highAt_nextEdge he, hp]; rfl)⟩

/-- Where the clock is low at the assertion sample, the sampling points are the rising edges (R98). -/
theorem samplingPoints_of_low {w : List Instant} {p : Nat} (d : Nat) (hp : highAt w .sck p = false) :
    samplingPoints w p d = risingEdges w p d := by
  simp [samplingPoints, risingEdges, hp]

theorem samplingPoints_eq_nil {w : List Instant} {p d : Nat} (h : clockEdges w p d = []) :
    samplingPoints w p d = [] := by
  simp [samplingPoints, h]

/-- Where the clock is high at the assertion sample, the sampling points are the first edge, a falling one, and the rising
edges after it (R98). -/
theorem samplingPoints_of_high {w : List Instant} {p e d : Nat} (h : IsNextEdge w .sck p e) (hd : e < d)
    (hp : highAt w .sck p = true) : samplingPoints w p d = e :: risingEdges w e d := by
  have he : highAt w .sck e = false := by rw [highAt_nextEdge h, hp]; rfl
  have hfind : (clockEdges w p d).find? (fun x => !highAt w .sck x) = some e := by
    rw [clockEdges_eq_cons h hd, List.find?_cons_of_pos (by simp [he])]
  unfold samplingPoints
  simp only [hfind, hp, Bool.true_and]
  rw [clockEdges_eq_cons h hd, List.filter_cons_of_pos (by simp)]
  congr 1
  refine List.filter_congr fun x hx => ?_
  have hne : e ≠ x := Nat.ne_of_lt (mem_clockEdges.mp hx).2.1
  simp [hne]

/-- From a cursor, either no point is left in the window, or the first one has the rising edges after it. -/
theorem pointsFrom_cases (w : List Instant) (first : Bool) (p d : Nat) :
    pointsFrom w first p d = [] ∨ ∃ q, pointsFrom w first p d = q :: risingEdges w q d := by
  cases first with
  | false => exact risingEdges_cases w p d
  | true =>
    cases hp : highAt w .sck p with
    | false => rw [pointsFrom_true, samplingPoints_of_low d hp]; exact risingEdges_cases w p d
    | true =>
      rcases clockEdges_cases w p d with ⟨hnil, -⟩ | ⟨e, he, hd, -⟩
      · exact .inl (samplingPoints_eq_nil hnil)
      · exact .inr ⟨e, samplingPoints_of_high he hd hp⟩

/-- The points after one of them are the rising edges after it. -/
theorem pointsFrom_drop (w : List Instant) (first : Bool) (p d k : Nat) (h : k < (pointsFrom w first p d).length) :
    (pointsFrom w first p d).drop (k + 1) = risingEdges w ((pointsFrom w first p d).getD k 0) d := by
  induction k generalizing first p with
  | zero =>
    rcases pointsFrom_cases w first p d with hnil | ⟨q, hcons⟩
    · simp [hnil] at h
    · simp [hcons]
  | succ k ih =>
    rcases pointsFrom_cases w first p d with hnil | ⟨q, hcons⟩
    · simp [hnil] at h
    · rw [hcons, List.length_cons] at h
      rw [hcons, List.drop_succ_cons, List.getD_cons_succ]
      exact ih false q (by rw [pointsFrom_false]; omega)

theorem lt_of_mem_pointsFrom {w : List Instant} {first : Bool} {p d q : Nat} (h : q ∈ pointsFrom w first p d) :
    p < q ∧ q < d := by
  have hmem : q ∈ clockEdges w p d := by
    cases first <;> exact List.mem_of_mem_filter h
  obtain ⟨hd, hp, -⟩ := mem_clockEdges.mp hmem
  exact ⟨hp, hd⟩

/-- A window has fewer sampling points than samples. -/
theorem length_samplingPoints_lt {w : List Instant} {a d : Nat} (h : a < d) : (samplingPoints w a d).length < d - a := by
  have hsub : samplingPoints w a d ⊆ List.range' (a + 1) (d - a - 1) := fun e he => by
    have hmem := lt_of_mem_pointsFrom (first := true) he
    rw [List.mem_range'_1]
    omega
  have hnodup : (samplingPoints w a d).Nodup := (List.nodup_range.filter _).filter _
  have hle := (hnodup.subperm hsub).length_le
  rw [List.length_range'] at hle
  omega

/-! ### The words of a list of points -/

/-- The words of eight points each in a list of points (R98). -/
def wordsOfPoints (w : List Instant) (pts : List Nat) : List SampledByte :=
  (List.range (pts.length / 8)).map fun k => wordOfPoints w ((pts.drop (8 * k)).take 8)

theorem wordsOfWindow_eq (w : List Instant) (a d : Nat) :
    wordsOfWindow w a d = wordsOfPoints w (samplingPoints w a d) := rfl

theorem wordsOfPoints_short {pts : List Nat} (w : List Instant) (h : pts.length < 8) : wordsOfPoints w pts = [] := by
  simp [wordsOfPoints, Nat.div_eq_of_lt h]

theorem wordsOfPoints_long {pts : List Nat} (w : List Instant) (h : 8 ≤ pts.length) :
    wordsOfPoints w pts = wordOfPoints w (pts.take 8) :: wordsOfPoints w (pts.drop 8) := by
  have hlen : pts.length / 8 = (pts.drop 8).length / 8 + 1 := by rw [List.length_drop]; omega
  unfold wordsOfPoints
  rw [hlen, List.range_succ_eq_map, List.map_cons, List.map_map]
  refine congrArg₂ _ (by simp) (List.map_congr_left fun k _ => ?_)
  simp only [Function.comp_apply, List.drop_drop]
  congr 3
  omega

theorem length_wordsOfPoints (w : List Instant) (pts : List Nat) : (wordsOfPoints w pts).length = pts.length / 8 := by
  simp [wordsOfPoints]

/-! ### The windows of a capture from a cursor on (R119) -/

/-- The window that starts at sample `a`, if one does (R119). -/
def windowAt (w : List Instant) (a : Nat) : Option (Nat × Nat) :=
  if fallAt w .csn a then (nextEdge w .csn a).map fun d => (a, d) else none

/-- The windows that start after sample `p`. -/
def windowsAfter (w : List Instant) (p : Nat) : List (Nat × Nat) := valuesAfter (windowAt w) p w.length

theorem windowAt_of_not_fall {w : List Instant} {a : Nat} (h : fallAt w .csn a = false) : windowAt w a = none := by
  simp [windowAt, h]

theorem windowAt_eq_some {w : List Instant} {a d : Nat} (h1 : fallAt w .csn a = true) (h2 : IsNextEdge w .csn a d) :
    windowAt w a = some (a, d) := by
  simp [windowAt, h1, (nextEdge_eq_some_iff w .csn a d).mpr h2]

theorem fallAt_of_not_edgeAt {w : List Instant} {c : Channel} {p : Nat} (h : edgeAt w c p = false) :
    fallAt w c p = false := by
  simp [fallAt, h]

theorem edgeAt_of_fallAt {w : List Instant} {c : Channel} {p : Nat} (h : fallAt w c p = true) :
    edgeAt w c p = true ∧ highAt w c p = false := by
  simpa [fallAt] using h

/-- No window starts at sample 0, so the windows after it are all. -/
theorem windowsAfter_zero (w : List Instant) : windowsAfter w 0 = windowsOf w := by
  refine List.filterMap_congr fun a _ => ?_
  cases a with
  | zero => simp [fallAt, edgeAt]
  | succ a => rw [if_pos (Nat.succ_pos a)]; rfl

/-- The edge that ends a window is not a falling one. -/
theorem fallAt_deassertion {w : List Instant} {a d : Nat} (h1 : fallAt w .csn a = true) (h2 : IsNextEdge w .csn a d) :
    fallAt w .csn d = false := by
  have hd : highAt w .csn d = true := by rw [highAt_nextEdge h2, (edgeAt_of_fallAt h1).2]; rfl
  simp [fallAt, hd]

theorem windowsAfter_eq_cons {w : List Instant} {p a d : Nat} (h : IsNextWindow w p a d) :
    windowsAfter w p = (a, d) :: windowsAfter w d := by
  obtain ⟨⟨hpa, hfall, hmin⟩, hd⟩ := h
  have hhead : windowsAfter w p = (a, d) :: windowsAfter w a :=
    valuesAfter_eq_cons hpa (by have := hd.lt_length; have := hd.1; omega) (windowAt_eq_some hfall hd)
      fun q h1 h2 => windowAt_of_not_fall (hmin q h1 h2)
  have hskip : windowsAfter w a = windowsAfter w d :=
    valuesAfter_skip _ (Nat.le_of_lt hd.1) fun r h1 h2 => windowAt_of_not_fall <| by
      rcases Nat.lt_or_eq_of_le h2 with h3 | rfl
      · exact fallAt_of_not_edgeAt (hd.2.2 r h1 h3)
      · exact fallAt_deassertion hfall hd
  rw [hhead, hskip]

theorem exists_least_fall {w : List Instant} {p q : Nat} (hpq : p < q) (hq : fallAt w .csn q = true) :
    ∃ a, IsNextFall w p a ∧ a ≤ q := by
  classical
  have hex : ∃ n, p < n ∧ fallAt w .csn n = true := ⟨q, hpq, hq⟩
  obtain ⟨h1, h2⟩ := Nat.find_spec hex
  refine ⟨Nat.find hex, ⟨h1, h2, fun r hr hlt => ?_⟩, Nat.find_min' hex ⟨hpq, hq⟩⟩
  have := Nat.find_min hex hlt
  simp_all

/-- If a window starts after `p`, there is a next one: the least falling edge has a later edge too. -/
theorem exists_nextWindow {w : List Instant} {p q : Nat} {x : Nat × Nat} (hpq : p < q) (hx : windowAt w q = some x) :
    ∃ a d, IsNextWindow w p a d := by
  have hfall : fallAt w .csn q = true := by
    by_contra h
    rw [windowAt_of_not_fall (by simpa using h)] at hx
    cases hx
  simp only [windowAt, hfall, if_true, Option.map_eq_some_iff] at hx
  obtain ⟨e, he, -⟩ := hx
  rw [nextEdge_eq_some_iff] at he
  obtain ⟨a, ha, haq⟩ := exists_least_fall hpq hfall
  obtain ⟨d, hd⟩ := exists_least_edge (show a < e from by have := he.1; omega) he.2.1
  exact ⟨a, d, ha, hd⟩

/-- From a cursor, either no window is left, or the next one is the first of the list. -/
theorem windowsAfter_cases (w : List Instant) (p : Nat) :
    (windowsAfter w p = [] ∧ ¬∃ a d, IsNextWindow w p a d) ∨
    ∃ a d, IsNextWindow w p a d ∧ windowsAfter w p = (a, d) :: windowsAfter w d := by
  by_cases h : ∃ a d, IsNextWindow w p a d
  · obtain ⟨a, d, had⟩ := h
    exact .inr ⟨a, d, had, windowsAfter_eq_cons had⟩
  · refine .inl ⟨valuesAfter_eq_nil fun q hpq _ => ?_, h⟩
    by_contra hne
    obtain ⟨x, hx⟩ := Option.ne_none_iff_exists'.mp hne
    exact h (exists_nextWindow hpq hx)

theorem lt_of_mem_windowsAfter {w : List Instant} {p : Nat} {x : Nat × Nat} (h : x ∈ windowsAfter w p) : p < x.1 := by
  obtain ⟨a, -, ha⟩ := List.mem_filterMap.mp h
  split at ha
  · obtain rfl : x.1 = a := by
      unfold windowAt at ha
      split at ha
      · obtain ⟨d, -, rfl⟩ := Option.map_eq_some_iff.mp ha
        rfl
      · cases ha
    assumption
  · cases ha

/-- Successive windows do not overlap (R119). -/
theorem windowsAfter_pairwise (w : List Instant) (p : Nat) : (windowsAfter w p).Pairwise fun x y => x.2 < y.1 := by
  induction hl : windowsAfter w p generalizing p with
  | nil => exact .nil
  | cons x rest ih =>
    rcases windowsAfter_cases w p with ⟨h, -⟩ | ⟨a, d, -, h⟩
    · rw [h] at hl
      cases hl
    · rw [h, List.cons.injEq] at hl
      obtain ⟨rfl, rfl⟩ := hl
      exact .cons (fun y hy => lt_of_mem_windowsAfter hy) (ih d rfl)

end Sys2Proof.Machine

end

-- ==== Sampler: closed form ====
section
/-! PROOFS. SAMPLEBYTE against the closed form (R92 to R98): from a state inside a window, each part of the Sampler goes to
the next sampling point, or lands on the deassertion sample when none is left. -/

namespace Sys2Proof.Machine

/-! ### The states the Sampler goes through -/

/-- All four cursors on the deassertion sample (R166). -/
def landed (s : State) : State := { s with cur := Cursors.all s.selHigh }

/-- FALL and the accumulators cleared, as the entry phase does first (R93). -/
def cleared (s : State) : State := { s with fall := false, mosiAcc := 0, misoAcc := 0 }

/-- The bit at sampling point `q` taken, with the marker of the closed form (R94, R98). -/
def bitTaken (q : Nat) (s : State) : State :=
  { s with
    cur := Cursors.all q
    marks := s.marks.set s.bitIdx.toNat (markerAt s.capture q) s.bitIdx.isLt
    mosiAcc := shiftIn s.mosiAcc (highAt s.capture .mosi q)
    misoAcc := shiftIn s.misoAcc (highAt s.capture .miso q)
    fall := false }

/-- The last bits of a byte taken at the points given, BITIDX counting up to 7. -/
def bitsTaken : List Nat → State → State
  | [], s => s
  | q :: qs, s => bitsTaken qs (bitTaken q { s with bitIdx := BitVec.ofNat 3 (7 - qs.length) })

/-- A byte taken at the eight points given (R96). -/
def byteTaken (pts : List Nat) (s : State) : State :=
  { s with
    cur := Cursors.all (pts.getD 7 0)
    fall := false
    bitIdx := 7
    mosiAcc := (wordOfPoints s.capture pts).mosi
    misoAcc := (wordOfPoints s.capture pts).miso
    marks := (wordOfPoints s.capture pts).marks
    byte := wordOfPoints s.capture pts }

@[simp] theorem landed_setCursor (s : State) (c : Channel) (v : Nat) : landed (s.setCursor c v) = landed s := rfl

@[simp] theorem bitTaken_setCursor (q : Nat) (s : State) (c : Channel) (v : Nat) :
    bitTaken q (s.setCursor c v) = bitTaken q s := rfl

@[simp] theorem State.setCursor_setCursor (s : State) (c : Channel) (v v' : Nat) :
    (s.setCursor c v).setCursor c v' = s.setCursor c v' := by
  cases c <;> rfl

/-! ### Readiness is kept -/

/-- The Sampler's preconditions hold again after any part of it that leaves the clock inside the window and no line ahead
of it. -/
theorem SamplerReady.of_frame {s t : State} (h : SamplerReady s) (hframe : SamplerFrame s t)
    (hmove : ∀ c, s.cur.get c ≤ t.cur.get c) (hclock : t.cur.sck < s.selHigh) (hline : ∀ c, t.cur.get c ≤ t.cur.sck) :
    SamplerReady t := by
  rw [hframe]
  exact ⟨h.inTxn, h.windowInCapture, hclock, fun c => Nat.le_trans (h.afterLow c) (hmove c), hline⟩

theorem SamplerReady.cursor_le {s : State} (h : SamplerReady s) (c : Channel) : s.cur.get c ≤ s.selHigh :=
  Nat.le_trans (h.notAhead c) (Nat.le_of_lt h.clockInWindow)

theorem SamplerReady.clock_lt_size {s : State} (h : SamplerReady s) : s.cur.sck < s.size :=
  Nat.lt_trans h.clockInWindow h.windowInCapture

theorem SamplerReady.setClock {s : State} {e : Nat} (h : SamplerReady s) (hp : s.cur.sck ≤ e) (hd : e < s.selHigh) :
    SamplerReady (s.setCursor .sck e) := by
  refine h.of_frame rfl (fun c => ?_) hd (fun c => ?_)
  · cases c with
    | sck => exact hp
    | csn | mosi | miso => exact Nat.le_refl _
  · cases c with
    | sck => exact Nat.le_refl _
    | csn => exact Nat.le_trans (h.notAhead .csn) hp
    | mosi => exact Nat.le_trans (h.notAhead .mosi) hp
    | miso => exact Nat.le_trans (h.notAhead .miso) hp

theorem SamplerReady.bitTaken {s : State} {q : Nat} (h : SamplerReady s) (hp : s.cur.sck ≤ q) (hd : q < s.selHigh) :
    SamplerReady (bitTaken q s) :=
  h.of_frame rfl (fun c => by simpa [Machine.bitTaken] using Nat.le_trans (h.notAhead c) hp) hd
    fun c => Nat.le_of_eq (Cursors.get_all q c)

theorem SamplerReady.cleared {s : State} (h : SamplerReady s) : SamplerReady (cleared s) :=
  h.of_frame rfl (fun _ => Nat.le_refl _) h.clockInWindow h.notAhead

theorem SamplerReady.setBitIdx {s : State} (h : SamplerReady s) (i : BitVec 3) :
    SamplerReady { s with bitIdx := i } :=
  h.of_frame rfl (fun _ => Nat.le_refl _) h.clockInWindow h.notAhead

/-- The level of the clock, read inside the window. -/
theorem SamplerReady.readClock {s : State} (h : SamplerReady s) :
    readLevel .sck s = .next (highAt s.capture .sck s.cur.sck) :=
  readLevel_inside (c := .sck) h.clock_lt_size

/-! ### Advancing the clock -/

/-- Inside a window the clock advances to the next clock edge, or lands when the window has none left (R90). -/
theorem advanceClock_cases {s : State} (h : SamplerReady s) :
    (clockEdges s.capture s.cur.sck s.selHigh = [] ∧ advanceClock s = .next (landed s, false)) ∨
    ∃ e, IsNextEdge s.capture .sck s.cur.sck e ∧ e < s.selHigh ∧
      advanceClock s = .next (s.setCursor .sck e, true) := by
  rcases clockEdges_cases s.capture s.cur.sck s.selHigh with ⟨hnil, hge⟩ | ⟨e, he, hd, -⟩
  · exact .inl ⟨hnil, advanceClock_fail hge h.cursor_le h.windowInCapture⟩
  · exact .inr ⟨e, he, hd, advanceClock_ok he hd⟩

/-- INTERBIT goes to the next rising edge, or lands when the window has none left (R95). -/
theorem interBit_cases {s : State} (h : SamplerReady s) :
    (risingEdges s.capture s.cur.sck s.selHigh = [] ∧ interBit s = .next (landed s, false)) ∨
    ∃ e, s.cur.sck < e ∧ e < s.selHigh ∧ highAt s.capture .sck e = true ∧
      risingEdges s.capture s.cur.sck s.selHigh = e :: risingEdges s.capture e s.selHigh ∧
      interBit s = .next (s.setCursor .sck e, true) := by
  unfold interBit
  rw [h.readClock, andThen_next]
  cases hp : highAt s.capture .sck s.cur.sck with
  | false =>
    rcases advanceClock_cases h with ⟨hnil, hadv⟩ | ⟨e, he, hd, hadv⟩
    · exact .inl ⟨risingEdges_eq_nil hnil, by simpa using hadv⟩
    · exact .inr ⟨e, he.1, hd, by rw [highAt_nextEdge he, hp]; rfl, risingEdges_of_low he hd hp, by simpa using hadv⟩
  | true =>
    rcases advanceClock_cases h with ⟨hnil, hadv⟩ | ⟨f, hf, hfd, hadv⟩
    · exact .inl ⟨risingEdges_eq_nil hnil, by simp [hadv]⟩
    · have hlow : highAt s.capture .sck f = false := by rw [highAt_nextEdge hf, hp]; rfl
      rw [risingEdges_of_high hf hfd hp]
      rcases advanceClock_cases (h.setClock (Nat.le_of_lt hf.1) hfd) with ⟨hnil, hadv2⟩ | ⟨e, he, hd, hadv2⟩
      · exact .inl ⟨risingEdges_eq_nil hnil, by simp [hadv, hadv2]⟩
      · replace he : IsNextEdge s.capture .sck f e := he
        exact .inr ⟨e, Nat.lt_trans hf.1 he.1, hd, by rw [highAt_nextEdge he, hlow]; rfl,
          risingEdges_of_low he hd hlow, by simp [hadv, hadv2]⟩

/-! ### The entry phase -/

/-- The entry phase, of the state with FALL and the accumulators cleared (R93). -/
theorem samplerEntry_eq (first : Bool) (s : State) :
    samplerEntry first s = andThen (readLevel .sck (cleared s)) fun high =>
      unlessEnd (if high && !first then advanceClock (cleared s) else .next (cleared s, true)) fun s1 =>
        andThen (readLevel .sck s1) fun now =>
          if now then .next ({ s1 with fall := fallAtEntry now first }, true) else advanceClock s1 := rfl

/-- On the first byte with the clock high, the entry phase sets FALL and stays (R93 (b)). -/
theorem samplerEntry_first_high {s : State} (h : SamplerReady s) (hp : highAt s.capture .sck s.cur.sck = true) :
    samplerEntry true s = .next ({ cleared s with fall := true }, true) := by
  have hread : readLevel .sck (cleared s) = .next true := by rw [h.cleared.readClock]; exact congrArg _ hp
  simp [samplerEntry_eq, hread, fallAtEntry]

/-- Otherwise the entry phase goes to the next rising edge, as INTERBIT does (R93). -/
theorem samplerEntry_eq_interBit {s : State} {first : Bool} (h : SamplerReady s)
    (hp : first = false ∨ highAt s.capture .sck s.cur.sck = false) : samplerEntry first s = interBit (cleared s) := by
  have hread := h.cleared.readClock
  rw [samplerEntry_eq, interBit, hread, andThen_next, andThen_next]
  cases hc : highAt (cleared s).capture .sck (cleared s).cur.sck with
  | false =>
    rw [hc] at hread
    simp [hread]
  | true =>
    obtain rfl : first = false := by
      rcases hp with hp | hp
      · exact hp
      · exact absurd (hp.symm.trans hc) (by decide)
    rcases advanceClock_cases h.cleared with ⟨-, hadv⟩ | ⟨e, he, hd, hadv⟩
    · simp [hadv]
    · have hread2 := (h.cleared.setClock (Nat.le_of_lt he.1) hd).readClock
      have hlow : highAt (cleared s).capture .sck e = false := by rw [highAt_nextEdge he, hc]; rfl
      simp only [State.setCursor_capture, State.setCursor_cur, Cursors.set, hlow] at hread2
      simp [hadv, hread2]

/-! ### The bits -/

/-- The points at which the bits from here on are taken: in falling-edge mode those of R98 from the clock's position, else
that position and the rising edges after it (R94, R95). -/
def pendingPoints (s : State) : List Nat :=
  if s.fall then samplingPoints s.capture s.cur.sck s.selHigh
  else s.cur.sck :: risingEdges s.capture s.cur.sck s.selHigh

/-- The entry phase answers with the byte's points ahead and the clock high, or lands when the window has no point left. -/
theorem samplerEntry_cases {s : State} (first : Bool) (h : SamplerReady s) :
    (pointsFrom s.capture first s.cur.sck s.selHigh = [] ∧ samplerEntry first s = .next (landed (cleared s), false)) ∨
    ∃ t, samplerEntry first s = .next (t, true) ∧ SamplerReady t ∧ highAt t.capture .sck t.cur.sck = true ∧
      pendingPoints t = pointsFrom s.capture first s.cur.sck s.selHigh ∧
      t = { cleared s with cur := t.cur, fall := t.fall } := by
  by_cases hmode : first = true ∧ highAt s.capture .sck s.cur.sck = true
  · obtain ⟨rfl, hp⟩ := hmode
    exact .inr ⟨_, samplerEntry_first_high h hp,
      h.of_frame rfl (fun _ => Nat.le_refl _) h.clockInWindow h.notAhead, hp, rfl, rfl⟩
  · have hp : first = false ∨ highAt s.capture .sck s.cur.sck = false := by
      cases first <;> simp_all
    have hpts : pointsFrom s.capture first s.cur.sck s.selHigh = risingEdges s.capture s.cur.sck s.selHigh := by
      rcases hp with rfl | hp
      · rfl
      · cases first
        · rfl
        · exact samplingPoints_of_low _ hp
    rw [samplerEntry_eq_interBit h hp, hpts]
    rcases interBit_cases h.cleared with ⟨hnil, hinter⟩ | ⟨e, hpe, hd, he, hcons, hinter⟩
    · exact .inl ⟨hnil, hinter⟩
    · exact .inr ⟨_, hinter, h.cleared.setClock (Nat.le_of_lt hpe) hd, he, hcons.symm, rfl⟩

/-- Recording at the clock's position is the bit of the closed form when FALL tells the direction of the edge there. -/
theorem recordBit_eq_bitTaken {s : State} (h : SamplerReady s) (hdir : highAt s.capture .sck s.cur.sck = !s.fall) :
    recordBit s = .next (bitTaken s.cur.sck s) := by
  rw [recordBit_eq_next.mpr ⟨h.notAhead, h.clock_lt_size, rfl⟩]
  unfold bitRecorded bitTaken markerAt dirOfBit
  rw [hdir]
  cases s.fall <;> rfl

/-- SAMPLEBIT takes the bit at the next point, or lands when in falling-edge mode the window has none (R94). -/
theorem sampleBit_cases {s : State} (h : SamplerReady s) (hp : highAt s.capture .sck s.cur.sck = true) :
    (pendingPoints s = [] ∧ sampleBit s = .next (landed s, false)) ∨
    ∃ q, s.cur.sck ≤ q ∧ q < s.selHigh ∧ pendingPoints s = q :: risingEdges s.capture q s.selHigh ∧
      sampleBit s = .next (bitTaken q s, true) := by
  unfold sampleBit pendingPoints
  cases hf : s.fall with
  | false =>
    refine .inr ⟨s.cur.sck, Nat.le_refl _, h.clockInWindow, by simp, ?_⟩
    simp [recordBit_eq_bitTaken h (by rw [hp, hf]; rfl)]
  | true =>
    rcases advanceClock_cases h with ⟨hnil, hadv⟩ | ⟨e, he, hd, hadv⟩
    · exact .inl ⟨by simpa using samplingPoints_eq_nil hnil, by simp [hadv]⟩
    · have hlow : highAt s.capture .sck e = false := by rw [highAt_nextEdge he, hp]; rfl
      have hrec := recordBit_eq_bitTaken (h.setClock (Nat.le_of_lt he.1) hd) (by simpa [hf, Cursors.set] using hlow)
      exact .inr ⟨e, Nat.le_of_lt he.1, hd, by simpa using samplingPoints_of_high he hd hp, by simp [hadv, hrec, Cursors.set]⟩

/-- One more bit of a byte (R92). -/
theorem sampleBits_succ (left : Nat) (s : State) :
    sampleBits (left + 1) s = unlessEnd (sampleBit { s with bitIdx := BitVec.ofNat 3 (7 - left) }) fun s1 =>
      if left = 0 then .next (s1, true) else unlessEnd (interBit s1) (sampleBits left) := rfl

theorem bitsTaken_cons (q : Nat) (qs : List Nat) (s : State) :
    bitsTaken (q :: qs) s = bitsTaken qs (bitTaken q { s with bitIdx := BitVec.ofNat 3 (7 - qs.length) }) := rfl

/-- Taking a bit does not depend on where the clock stood before. -/
theorem bitsTaken_setCursor {pts : List Nat} (h : pts ≠ []) (s : State) (c : Channel) (v : Nat) :
    bitsTaken pts (s.setCursor c v) = bitsTaken pts s := by
  cases pts with
  | nil => exact absurd rfl h
  | cons q qs => rfl

/-- The bits left of a byte, SAMPLEBIT and INTERBIT in turn: taken at the next points when there are enough of them, else the
Sampler lands (R92). -/
theorem sampleBits_spec (left : Nat) {s : State} (h : SamplerReady s) (hp : highAt s.capture .sck s.cur.sck = true) :
    (left < (pendingPoints s).length →
      sampleBits (left + 1) s = .next (bitsTaken ((pendingPoints s).take (left + 1)) s, true)) ∧
    ((pendingPoints s).length ≤ left →
      ∃ t, sampleBits (left + 1) s = .next (t, false) ∧ t.cur = Cursors.all s.selHigh) := by
  induction left generalizing s with
  | zero =>
    rw [sampleBits_succ]
    rcases sampleBit_cases (h.setBitIdx (BitVec.ofNat 3 7)) hp with ⟨hnil, hbit⟩ | ⟨q, hpq, hqd, hcons, hbit⟩
    · replace hnil : pendingPoints s = [] := hnil
      simp [hnil, hbit, landed]
    · replace hcons : pendingPoints s = q :: risingEdges s.capture q s.selHigh := hcons
      simp [hcons, hbit, bitsTaken]
  | succ left ih =>
    rw [sampleBits_succ]
    have h7 := h.setBitIdx (BitVec.ofNat 3 (7 - (left + 1)))
    rcases sampleBit_cases h7 hp with ⟨hnil, hbit⟩ | ⟨q, hpq, hqd, hcons, hbit⟩
    · replace hnil : pendingPoints s = [] := hnil
      rw [hbit, hnil]
      exact ⟨fun hlen => absurd hlen (Nat.not_lt_zero _), fun _ => ⟨_, rfl, rfl⟩⟩
    · replace hcons : pendingPoints s = q :: risingEdges s.capture q s.selHigh := hcons
      have h1 := h7.bitTaken hpq hqd
      rw [hbit, hcons, unlessEnd_next, if_pos rfl, if_neg (Nat.succ_ne_zero left), List.length_cons]
      rcases interBit_cases h1 with ⟨hnil, hinter⟩ | ⟨e, hqe, hed, he, hnext, hinter⟩
      · replace hnil : risingEdges s.capture q s.selHigh = [] := hnil
        rw [hinter, hnil, List.length_nil]
        exact ⟨fun hlen => by omega, fun _ => ⟨_, rfl, rfl⟩⟩
      · replace hnext : risingEdges s.capture q s.selHigh = e :: risingEdges s.capture e s.selHigh := hnext
        obtain ⟨ih1, ih2⟩ := ih (h1.setClock (Nat.le_of_lt hqe) hed) he
        have hpend : pendingPoints ((bitTaken q { s with bitIdx := BitVec.ofNat 3 (7 - (left + 1)) }).setCursor .sck e) =
            risingEdges s.capture q s.selHigh := hnext.symm
        rw [hpend] at ih1 ih2
        rw [hinter, unlessEnd_next, if_pos rfl, List.take_succ_cons]
        refine ⟨fun hlen => ?_, fun hlen => ih2 (by omega)⟩
        have hlen' : left < (risingEdges s.capture q s.selHigh).length := by omega
        have htake : ((risingEdges s.capture q s.selHigh).take (left + 1)).length = left + 1 := by
          rw [List.length_take]
          omega
        rw [ih1 hlen', bitsTaken_setCursor (List.ne_nil_of_length_pos (by omega)), bitsTaken_cons, htake]

/-! ### The bits taken, field by field -/

theorem bitsTaken_frame (pts : List Nat) (s : State) : SamplerFrame s (bitsTaken pts s) := by
  induction pts generalizing s with
  | nil => exact SamplerFrame.refl s
  | cons q qs ih => exact SamplerFrame.trans (rfl : SamplerFrame s (bitTaken q { s with bitIdx := _ })) (ih _)

theorem bitsTaken_mosiAcc (pts : List Nat) (s : State) :
    (bitsTaken pts s).mosiAcc = pts.foldl (fun acc p => shiftIn acc (highAt s.capture .mosi p)) s.mosiAcc := by
  induction pts generalizing s with
  | nil => rfl
  | cons q qs ih => exact ih _

theorem bitsTaken_misoAcc (pts : List Nat) (s : State) :
    (bitsTaken pts s).misoAcc = pts.foldl (fun acc p => shiftIn acc (highAt s.capture .miso p)) s.misoAcc := by
  induction pts generalizing s with
  | nil => rfl
  | cons q qs ih => exact ih _

/-- The last bit leaves the four cursors on its point, FALL cleared and BITIDX at 7. -/
theorem bitsTaken_last (pts : List Nat) (q : Nat) (s : State) :
    (bitsTaken (pts ++ [q]) s).cur = Cursors.all q ∧ (bitsTaken (pts ++ [q]) s).fall = false ∧
      (bitsTaken (pts ++ [q]) s).bitIdx = 7 := by
  induction pts generalizing s with
  | nil => exact ⟨rfl, rfl, rfl⟩
  | cons p ps ih => exact ih _

/-- The bits taken write the last markers, and leave those before them. -/
theorem bitsTaken_marks (pts : List Nat) (s : State) (h : pts.length ≤ 8) :
    (bitsTaken pts s).marks.toList = s.marks.toList.take (8 - pts.length) ++ pts.map (markerAt s.capture) := by
  induction pts generalizing s with
  | nil => simp [bitsTaken]
  | cons q qs ih =>
    rw [List.length_cons] at h
    have hidx : (BitVec.ofNat 3 (7 - qs.length)).toNat = 7 - qs.length := by
      rw [BitVec.toNat_ofNat, Nat.mod_eq_of_lt (by omega)]
    have hset : ((s.marks.toList.set (7 - qs.length) (markerAt s.capture q)).take (8 - qs.length)) =
        s.marks.toList.take (7 - qs.length) ++ [markerAt s.capture q] := by
      have hsucc : 8 - qs.length = (7 - qs.length) + 1 := by omega
      rw [hsucc, List.take_add_one, List.take_set_of_le (Nat.le_refl _), List.getElem?_set_self (by simp; omega)]
      rfl
    rw [bitsTaken_cons, ih _ (by omega), List.length_cons, List.map_cons, show 8 - (qs.length + 1) = 7 - qs.length by omega]
    simp only [bitTaken, hidx, Vector.toList_set, hset, List.append_assoc, List.singleton_append]

/-! ### The whole byte -/

/-- The eight markers of a word are those of its eight points. -/
theorem wordOfPoints_marks_toList {pts : List Nat} (w : List Instant) (h : pts.length = 8) :
    (wordOfPoints w pts).marks.toList = pts.map (markerAt w) := by
  unfold wordOfPoints
  rw [Vector.toList_ofFn]
  refine List.ext_getElem (by simp [h]) fun i h1 h2 => ?_
  rw [List.length_map] at h2
  rw [List.getElem_ofFn, List.getElem_map, List.getD_eq_getElem _ _ h2]

/-- Eight bits taken from cleared accumulators complete the word of their points (R96). -/
theorem completeByte_bitsTaken {pts : List Nat} {s : State} (h : pts.length = 8) (hmosi : s.mosiAcc = 0)
    (hmiso : s.misoAcc = 0) : completeByte (bitsTaken pts s) = byteTaken pts s := by
  have hmarks : (bitsTaken pts s).marks = (wordOfPoints s.capture pts).marks := by
    rw [← Vector.toList_inj, bitsTaken_marks pts s (Nat.le_of_eq h), wordOfPoints_marks_toList _ h, h]
    rfl
  obtain ⟨hcur, hfall, hidx⟩ := bitsTaken_last (pts.take 7) (pts.getD 7 0) s
  have hsplit : pts.take 7 ++ [pts.getD 7 0] = pts := by
    rw [List.getD_eq_getElem _ _ (by omega), List.take_append_getElem, List.take_of_length_le (by omega)]
  rw [hsplit] at hcur hfall hidx
  have hu := bitsTaken_frame pts s
  unfold SamplerFrame at hu
  rw [hmarks, hcur, hfall, hidx, bitsTaken_mosiAcc, bitsTaken_misoAcc, hmosi, hmiso] at hu
  rw [hu]
  simp [completeByte, byteTaken, wordOfPoints, markerAt]

/-- SAMPLEBYTE with eight points left in the window takes the word of the first eight (R92 to R98). -/
theorem sampleByte_of_points {s : State} {first : Bool} (h : SamplerReady s)
    (hlen : 8 ≤ (pointsFrom s.capture first s.cur.sck s.selHigh).length) :
    sampleByte first s =
      .next (byteTaken ((pointsFrom s.capture first s.cur.sck s.selHigh).take 8) s, true) := by
  rcases samplerEntry_cases first h with ⟨hnil, -⟩ | ⟨t, hentry, ht, hp, hpend, hframe⟩
  · simp [hnil] at hlen
  · have hbits := (sampleBits_spec 7 ht hp).1 (by rw [hpend]; exact hlen)
    rw [hpend] at hbits
    unfold sampleByte
    rw [hentry, unlessEnd_next, if_pos rfl, hbits, unlessEnd_next, if_pos rfl,
      completeByte_bitsTaken (by rw [List.length_take]; omega) (by rw [hframe]; rfl) (by rw [hframe]; rfl), hframe]
    rfl

/-- SAMPLEBYTE with fewer points left answers END with the cursors on the deassertion sample (R92, R97). -/
theorem sampleByte_of_few_points {s : State} {first : Bool} (h : SamplerReady s)
    (hlen : (pointsFrom s.capture first s.cur.sck s.selHigh).length < 8) :
    ∃ t, sampleByte first s = .next (t, false) ∧ t.cur = Cursors.all s.selHigh := by
  unfold sampleByte
  rcases samplerEntry_cases first h with ⟨-, hentry⟩ | ⟨t, hentry, ht, hp, hpend, hframe⟩
  · exact ⟨landed (cleared s), by rw [hentry]; rfl, rfl⟩
  · obtain ⟨u, hbits, hu⟩ := (sampleBits_spec 7 ht hp).2 (by rw [hpend]; omega)
    exact ⟨u, by rw [hentry, unlessEnd_next, if_pos rfl, hbits]; rfl, by rw [hu, hframe]; rfl⟩

end Sys2Proof.Machine

end

-- ==== Segmenter: a run without cancellation ====
section
/-! PROOFS. RUN against the closed form (R110 to R119, R136): what each row of R118's table does, the rows of one window in
turn, and the windows of a capture in turn. -/

namespace Sys2Proof.Machine

/-! ### Transitions in turn -/

/-- `n` transitions lead from `s` to `t`: a run from `s` with `n` more transitions to spend goes on as one from `t`. -/
def Reaches (n : Nat) (s t : State) : Prop := ∀ left, runTransitions (n + left) s = runTransitions left t

theorem Reaches.trans {m n : Nat} {s t u : State} (h1 : Reaches m s t) (h2 : Reaches n t u) : Reaches (m + n) s u :=
  fun left => by rw [Nat.add_assoc, h1, h2]

theorem reaches_of_transition {s t : State} (hst : s.st ≠ .halted) (h : transition s = .next t) : Reaches 1 s t :=
  fun left => by rw [Nat.add_comm, runTransitions, if_neg hst, h, andThen_next]

theorem runTransitions_halted {s : State} (hst : s.st = .halted) (left : Nat) : runTransitions left s = .next s := by
  cases left <;> exact if_pos hst

/-- What the transitions inside a window leave unchanged: the inputs and the window's two samples. -/
structure SameWindow (s t : State) : Prop where
  capture : t.capture = s.capture
  cancelDraws : t.cancelDraws = s.cancelDraws
  selLow : t.selLow = s.selLow
  selHigh : t.selHigh = s.selHigh

theorem SameWindow.trans {s t u : State} (h1 : SameWindow s t) (h2 : SameWindow t u) : SameWindow s u :=
  ⟨h2.capture.trans h1.capture, h2.cancelDraws.trans h1.cancelDraws, h2.selLow.trans h1.selLow,
    h2.selHigh.trans h1.selHigh⟩

theorem sampleByte_sameWindow {first : Bool} {s t : State} {ok : Bool} (h : sampleByte first s = .next (t, ok)) :
    SameWindow s t ∧ t.out = s.out ∧ t.txn = s.txn := by
  obtain ⟨hframe, -, -⟩ := sampleByte_frame h
  unfold SamplerFrame at hframe
  exact ⟨⟨by rw [hframe], by rw [hframe], by rw [hframe], by rw [hframe]⟩, by rw [hframe], by rw [hframe]⟩

/-! ### The rows of R118 -/

/-- COLLECT inside a window is one call of the Sampler and the choice of the next control state (R113). -/
theorem transition_inTxn {s : State} (h : SamplerReady s) :
    transition s = andThen (sampleByte s.first s) fun r => .next (afterSampler r.2 r.1) := by
  unfold transition
  rw [h.inTxn]
  exact requireOp_some h.running h.inTxn _

/-- The state after PUSHBYTE (R114): the markers of BYTE emitted, the byte retained where there is room, FIRST cleared. -/
def bytePushed (s : State) : State :=
  { s with
    out := s.out ++ markersOfByte s.byte
    txn := if s.txn.length < 33 then s.txn ++ [s.byte] else s.txn
    first := false
    st := .inTxn }

theorem transition_byteDone {s : State} (h : Running s) (hst : s.st = .byteDone) :
    transition s = .next (bytePushed s) := by
  unfold transition
  rw [hst]
  refine (requireOp_some h hst _).trans ?_
  unfold retainByte bytePushed
  split
  · rw [if_pos (by assumption)]; rfl
  · rw [if_neg (by assumption)]; rfl

/-- The state after CLOSETXN (R115): cursors on the deassertion sample, STOP marker, Transaction, progress report. -/
def txnClosed (s : State) : State :=
  { s with
    cur := Cursors.all s.selHigh
    out := s.out ++ [.mark s.selHigh .stop .csn, .txn (transactionOf s), .progress s.selHigh]
    st := .idle }

theorem transition_txnDone {s : State} (hst : s.st = .txnDone) (hcur : ∀ c, s.cur.get c ≤ s.selHigh)
    (hin : s.selHigh < s.size) (htxn : s.txn.length ≤ 33) : transition s = .next (txnClosed s) := by
  have hland : landOnDeassertion s = .next { s with cur := Cursors.all s.selHigh } := seekAll_eq_next.mpr ⟨hcur, hin, rfl⟩
  have hrun : Running s := running_of_lt_size hin (by simp [hst])
  unfold transition
  rw [hst]
  refine (requireOp_some hrun hst _).trans ?_
  rw [hland, andThen_next]
  unfold handOver
  rw [if_pos (by exact htxn), andThen_next]
  simp [txnClosed, returnToIdle, State.emit, State.setCtrl, transactionOf, State.rcount]

/-- The state after OPENTXN at the top of the loop (R112, R117). -/
def txnOpened (a d : Nat) (s : State) : State :=
  { s with
    cancelDraws := s.cancelDraws.tail
    selLow := a
    selHigh := d
    cur := Cursors.all a
    txn := []
    first := true
    out := s.out ++ [.mark a .start .csn]
    st := .inTxn }

theorem transition_idle_window {s : State} {a d : Nat} (hst : s.st = .idle) (hdraw : s.cancelDraws.headD false = false)
    (hwin : IsNextWindow s.capture s.cur.csn a d) (hcur : ∀ c, s.cur.get c ≤ a) : transition s = .next (txnOpened a d s) := by
  have hin : a < s.size := Nat.lt_trans hwin.2.1 hwin.2.lt_length
  have hrun : Running s := running_of_lt_size hin (by simp [hst])
  have hfind : findWindow { s with cancelDraws := s.cancelDraws.tail } = some (a, d) :=
    (findWindow_eq_some_iff _ a d).mpr hwin
  have hseek : seekAll a { s with cancelDraws := s.cancelDraws.tail, selLow := a, selHigh := d } =
      .next { s with cancelDraws := s.cancelDraws.tail, selLow := a, selHigh := d, cur := Cursors.all a } :=
    seekAll_eq_next.mpr ⟨hcur, hin, rfl⟩
  unfold transition
  rw [hst]
  unfold topOfLoop
  simp only [readCancel_fst, readCancel_snd, hdraw, Bool.false_eq_true, if_false, hfind]
  refine (requireOp_some (s := { s with cancelDraws := s.cancelDraws.tail }) hrun hst _).trans ?_
  rw [hseek]
  rfl

theorem transition_idle_exhausted {s : State} (hrun : Running s) (hst : s.st = .idle)
    (hdraw : s.cancelDraws.headD false = false) (hwin : ¬∃ a d, IsNextWindow s.capture s.cur.csn a d) :
    transition s = .next (haltWith .exhausted { s with cancelDraws := s.cancelDraws.tail }) := by
  have hfind : findWindow { s with cancelDraws := s.cancelDraws.tail } = none := by
    rw [Option.eq_none_iff_forall_ne_some]
    exact fun x hx => hwin ⟨x.1, x.2, (findWindow_eq_some_iff _ x.1 x.2).mp hx⟩
  unfold transition
  rw [hst]
  unfold topOfLoop
  simp only [readCancel_fst, readCancel_snd, hdraw, Bool.false_eq_true, if_false, hfind]
  exact requireOp_some (s := { s with cancelDraws := s.cancelDraws.tail }) hrun hst _

/-! ### One window -/

/-- Keeping a word where there is room keeps the first 33 of all words so far (R114, R162). -/
theorem retained_take {α : Type} (done : List α) (b : α) :
    (if (done.take 33).length < 33 then done.take 33 ++ [b] else done.take 33) = (done ++ [b]).take 33 := by
  rw [List.length_take]
  split
  · rw [List.take_of_length_le (by omega), List.take_of_length_le (by simp; omega)]
  · rw [List.take_append_of_le_length (by omega)]

/-- COLLECT with eight points left in the window (R113). -/
theorem transition_inTxn_byte {s : State} (h : SamplerReady s)
    (hlen : 8 ≤ (pointsFrom s.capture s.first s.cur.sck s.selHigh).length) :
    transition s =
      .next ((byteTaken ((pointsFrom s.capture s.first s.cur.sck s.selHigh).take 8) s).setCtrl .byteDone) := by
  rw [transition_inTxn h, sampleByte_of_points h hlen]
  rfl

/-- COLLECT with fewer points left: TXN_DONE with the cursors on the deassertion sample (R113, R166). -/
theorem transition_inTxn_end {s : State} (h : SamplerReady s)
    (hlen : (pointsFrom s.capture s.first s.cur.sck s.selHigh).length < 8) :
    ∃ t, transition s = .next t ∧ t.st = .txnDone ∧ t.cur = Cursors.all s.selHigh ∧ SameWindow s t ∧ t.out = s.out ∧
      t.txn = s.txn := by
  obtain ⟨u, hu, hcur⟩ := sampleByte_of_few_points h hlen
  obtain ⟨hsame, hout, htxn⟩ := sampleByte_sameWindow hu
  exact ⟨u.setCtrl .txnDone, by rw [transition_inTxn h, hu]; rfl, rfl, hcur,
    ⟨hsame.capture, hsame.cancelDraws, hsame.selLow, hsame.selHigh⟩, hout, htxn⟩

/-- COLLECT and PUSHBYTE with eight points left in the window: the word of the first eight is emitted and kept among the
first 33, and the Sampler is ready at the eighth point with FIRST cleared. -/
theorem reaches_next_byte {s : State} {pts : List Nat} {done : List SampledByte} (h : SamplerReady s)
    (hpts : pointsFrom s.capture s.first s.cur.sck s.selHigh = pts) (hlen : 8 ≤ pts.length) (htxn : s.txn = done.take 33) :
    ∃ t, Reaches 2 s t ∧ SamplerReady t ∧ SameWindow s t ∧
      pointsFrom t.capture t.first t.cur.sck t.selHigh = pts.drop 8 ∧
      t.txn = (done ++ [wordOfPoints s.capture (pts.take 8)]).take 33 ∧
      t.out = s.out ++ markersOfByte (wordOfPoints s.capture (pts.take 8)) := by
  have hcollect := transition_inTxn_byte h (by rw [hpts]; exact hlen)
  rw [hpts] at hcollect
  have hpush : transition ((byteTaken (pts.take 8) s).setCtrl .byteDone) =
      .next (bytePushed ((byteTaken (pts.take 8) s).setCtrl .byteDone)) :=
    transition_byteDone ⟨h.running.1, by simp⟩ rfl
  have hclock : (pts.take 8).getD 7 0 = pts.getD 7 0 := by simp
  have hin : s.cur.sck < pts.getD 7 0 ∧ pts.getD 7 0 < s.selHigh := by
    apply lt_of_mem_pointsFrom
    rw [hpts, List.getD_eq_getElem _ _ hlen]
    exact List.getElem_mem hlen
  refine ⟨_, (reaches_of_transition h.running.2 hcollect).trans (reaches_of_transition (by simp) hpush),
    ?ready, ⟨rfl, rfl, rfl, rfl⟩, ?points, ?kept, rfl⟩
  case ready =>
    refine ⟨rfl, h.windowInCapture, ?_, fun c => ?_, fun c => Nat.le_of_eq (Cursors.get_all _ c)⟩
    · exact (congrArg (· < s.selHigh) hclock).mpr hin.2
    · refine Nat.le_trans (h.afterLow .sck) (Nat.le_trans (Nat.le_of_lt hin.1) (Nat.le_of_eq ?_))
      exact hclock.symm.trans (Cursors.get_all _ c).symm
  case points =>
    have hrest := pointsFrom_drop s.capture s.first s.cur.sck s.selHigh 7 (by rw [hpts]; exact hlen)
    rw [hpts, ← hclock] at hrest
    exact hrest.symm
  case kept =>
    rw [← retained_take, ← htxn]
    rfl

/-- COLLECT and PUSHBYTE in turn to the end of the window: every word of the points left is emitted, the first 33 are
kept, and the cursors land on the deassertion sample. -/
theorem reaches_txnDone {s : State} {pts : List Nat} {done : List SampledByte} (h : SamplerReady s)
    (hpts : pointsFrom s.capture s.first s.cur.sck s.selHigh = pts) (htxn : s.txn = done.take 33) :
    ∃ t, Reaches (2 * (wordsOfPoints s.capture pts).length + 1) s t ∧ SameWindow s t ∧ t.st = .txnDone ∧
      t.cur = Cursors.all s.selHigh ∧ t.txn = (done ++ wordsOfPoints s.capture pts).take 33 ∧
      t.out = s.out ++ (wordsOfPoints s.capture pts).flatMap markersOfByte := by
  induction hn : pts.length using Nat.strong_induction_on generalizing s pts done with
  | _ n ih =>
    subst hn
    rcases Nat.lt_or_ge pts.length 8 with hlen | hlen
    · obtain ⟨t, hstep, hst, hcur, hsame, hout, htxn'⟩ := transition_inTxn_end h (by rw [hpts]; exact hlen)
      rw [wordsOfPoints_short _ hlen]
      exact ⟨t, reaches_of_transition h.running.2 hstep, hsame, hst, hcur, by rw [htxn', htxn, List.append_nil],
        by rw [hout, List.flatMap_nil, List.append_nil]⟩
    · obtain ⟨u, hreach, hu, hsame, hpts', hkept, hout⟩ := reaches_next_byte h hpts hlen htxn
      obtain ⟨t, hreach2, hsame2, hst, hcur, hkept2, hout2⟩ :=
        ih (pts.drop 8).length (by rw [List.length_drop]; omega) hu hpts' hkept rfl
      rw [hsame.capture] at hreach2 hkept2 hout2
      rw [wordsOfPoints_long _ hlen]
      refine ⟨t, ?_, hsame.trans hsame2, hst, by rw [hcur, hsame.selHigh], ?_, ?_⟩
      · have hcount : 2 * (wordsOfPoints s.capture (pts.drop 8)).length.succ + 1 =
            2 + (2 * (wordsOfPoints s.capture (pts.drop 8)).length + 1) := by omega
        rw [List.length_cons, hcount]
        exact hreach.trans hreach2
      · rw [hkept2, List.append_assoc, List.singleton_append]
      · rw [hout2, hout, List.append_assoc, List.flatMap_cons]

/-- The Sampler is ready once a transaction is opened on a window of the capture. -/
theorem txnOpened_ready {s : State} {p a d : Nat} (h : IsNextWindow s.capture p a d) : SamplerReady (txnOpened a d s) :=
  ⟨rfl, h.2.lt_length, h.2.1, fun c => Nat.le_of_eq (Cursors.get_all a c).symm, fun c => Nat.le_of_eq (Cursors.get_all a c)⟩

/-- One window from IDLE to IDLE: its messages in order, with the cursors on its deassertion sample (R136). -/
theorem reaches_next_window {s : State} {a d : Nat} (hst : s.st = .idle) (hdraw : s.cancelDraws.headD false = false)
    (hwin : IsNextWindow s.capture s.cur.csn a d) (hcur : ∀ c, s.cur.get c ≤ a) :
    ∃ t, Reaches (2 * (wordsOfWindow s.capture a d).length + 3) s t ∧ t.st = .idle ∧ t.cur = Cursors.all d ∧
      t.capture = s.capture ∧ t.cancelDraws = s.cancelDraws.tail ∧
      t.out = s.out ++ messagesOfWindow s.capture a d := by
  have hopen := transition_idle_window hst hdraw hwin hcur
  obtain ⟨t, hreach, hsame, htst, htcur, htxn, hout⟩ :=
    reaches_txnDone (done := []) (txnOpened_ready hwin) rfl (by rfl)
  have hcapture : t.capture = s.capture := hsame.capture
  have hlow : t.selLow = a := hsame.selLow
  have hhigh : t.selHigh = d := hsame.selHigh
  have hclose : transition t = .next (txnClosed t) := by
    refine transition_txnDone htst (fun c => ?_) ?_ ?_
    · rw [htcur, Cursors.get_all, hhigh]
      exact Nat.le_refl _
    · rw [hhigh, State.size, hcapture]
      exact hwin.2.lt_length
    · rw [htxn]
      exact List.length_take_le _ _
  refine ⟨txnClosed t, ?_, rfl, congrArg Cursors.all hhigh, hcapture, hsame.cancelDraws, ?_⟩
  · have h3 := (reaches_of_transition (by simp [hst]) hopen).trans
      (hreach.trans (reaches_of_transition (by simp [htst]) hclose))
    rwa [Nat.add_comm] at h3
  · have htransaction : transactionOf t = transactionOfWindow s.capture a d := by
      unfold transactionOf State.rcount
      rw [htxn, hlow, hhigh]
      rfl
    change t.out ++ [.mark t.selHigh .stop .csn, .txn (transactionOf t), .progress t.selHigh] = _
    rw [hout, hhigh, htransaction]
    simp [messagesOfWindow, wordsOfWindow_eq, txnOpened, pointsFrom_true, Cursors.all]

/-- A window takes at most four transitions for each of its samples. -/
theorem window_transitions_le {a d : Nat} (w : List Instant) (h : a < d) :
    2 * (wordsOfWindow w a d).length + 3 ≤ 4 * (d - a) := by
  have hlen := length_samplingPoints_lt (w := w) h
  rw [wordsOfWindow_eq, length_wordsOfPoints]
  omega

/-! ### The whole run -/

/-- A list of draws in which CANCEL_REQ never reads 1 (R21). -/
def NeverCancels (draws : List Bool) : Prop := ∀ b ∈ draws, b = false

theorem NeverCancels.head {draws : List Bool} (h : NeverCancels draws) : draws.headD false = false := by
  cases draws with
  | nil => rfl
  | cons b rest => exact h b List.mem_cons_self

theorem NeverCancels.tail {draws : List Bool} (h : NeverCancels draws) : NeverCancels draws.tail :=
  fun b hb => h b (List.mem_of_mem_tail hb)

/-- From IDLE with the four cursors on one sample and no cancellation ahead, the block goes through the windows left in the
capture and halts as EXHAUSTED, within four transitions for each sample left and one more. -/
theorem reaches_exhausted {s : State} {p : Nat} (hst : s.st = .idle) (hcur : s.cur = Cursors.all p) (hp : p < s.size)
    (hdraws : NeverCancels s.cancelDraws) :
    ∃ n t, n ≤ 4 * (s.size - p) + 1 ∧ Reaches n s t ∧ t.st = .halted ∧ t.haltCause = .exhausted ∧
      t.out = s.out ++ (windowsAfter s.capture p).flatMap fun x => messagesOfWindow s.capture x.1 x.2 := by
  have hcsn : s.cur.csn = p := by rw [hcur]; rfl
  induction hl : windowsAfter s.capture p generalizing s p with
  | nil =>
    rcases windowsAfter_cases s.capture p with ⟨-, hnone⟩ | ⟨a, d, -, hcons⟩
    · have hrun : Running s := running_of_lt_size hp (by simp [hst])
      exact ⟨1, _, by omega,
        reaches_of_transition hrun.2 (transition_idle_exhausted hrun hst hdraws.head (by rwa [hcsn])), rfl, rfl,
        by rw [List.flatMap_nil, List.append_nil]; rfl⟩
    · rw [hcons] at hl
      cases hl
  | cons x rest ih =>
    rcases windowsAfter_cases s.capture p with ⟨hnil, -⟩ | ⟨a, d, hwin, hcons⟩
    · rw [hnil] at hl
      cases hl
    · rw [hcons, List.cons.injEq] at hl
      obtain ⟨rfl, hrest⟩ := hl
      have hpa : p < a := hwin.1.1
      have had : a < d := hwin.2.1
      have hd : d < s.size := hwin.2.lt_length
      obtain ⟨u, hreach, hust, hucur, hucap, hudraws, huout⟩ :=
        reaches_next_window hst hdraws.head (by rwa [hcsn]) fun c => by rw [hcur, Cursors.get_all]; omega
      have husize : u.size = s.size := congrArg List.length hucap
      obtain ⟨n, t, hn, hreach2, htst, htcause, htout⟩ := ih hust hucur (by rwa [husize])
        (by rw [hudraws]; exact hdraws.tail) (by rw [hucur]; rfl) (by rwa [hucap])
      have hcount := window_transitions_le s.capture had
      rw [husize] at hn
      refine ⟨_, t, ?_, hreach.trans hreach2, htst, htcause, ?_⟩
      · omega
      · rw [htout, huout, hucap, List.append_assoc, List.flatMap_cons]

end Sys2Proof.Machine

open Sys2Proof Sys2Proof.Machine

/-- Settles O38: from reset the block goes through the windows of the capture one by one, emitting each one's messages, and
needs fewer transitions than RUN's bound; the windows follow one another because each search starts where the last window
ended. -/
theorem runEmitsTheClosedForm : Obligations.RunEmitsTheClosedForm := by
  intro w draws hw hdraws
  have hsize : 0 < (startOf w draws).size := List.length_pos_of_ne_nil hw
  obtain ⟨n, t, hn, hreach, hst, hcause, hout⟩ :=
    reaches_exhausted (s := startOf w draws) (p := 0) rfl rfl hsize hdraws
  refine ⟨⟨t, ?_, ?_, hst, hcause⟩, ?_⟩
  · obtain ⟨left, hleft⟩ : ∃ left, runBound (startOf w draws) = n + left :=
      Nat.exists_eq_add_of_le (by unfold runBound; omega)
    have hidle : (startOf w draws).st ≠ .halted := by simp [startOf, State.reset]
    refine (requireOp_some ⟨hw, hidle⟩ rfl _).trans ?_
    rw [hleft, hreach, runTransitions_halted hst]
  · rw [hout, messagesOfCapture, ← windowsAfter_zero]
    rfl
  · rw [← windowsAfter_zero]
    exact windowsAfter_pairwise w 0

end

-- ==== Segmenter: a run with any draws ====
section
/-! PROOFS. RUN from reset for every list of draws (R110, R117): the windows that are taken before the first 1 that
CANCEL_REQ reads, and the messages of those windows alone. -/

namespace Sys2Proof.Machine

/-- The windows that a run takes of those ahead of it: CANCEL_REQ is read once before each, and the first 1 ends the run
(R117). -/
def windowsTaken (draws : List Bool) : List (Nat × Nat) → List (Nat × Nat)
  | [] => []
  | x :: rest => if draws.headD false then [] else x :: windowsTaken draws.tail rest

theorem windowsTaken_of_cancel {draws : List Bool} (h : draws.headD false = true) (xs : List (Nat × Nat)) :
    windowsTaken draws xs = [] := by
  cases xs with
  | nil => rfl
  | cons x rest => exact if_pos h

theorem windowsTaken_cons {draws : List Bool} (h : draws.headD false = false) (x : Nat × Nat) (rest : List (Nat × Nat)) :
    windowsTaken draws (x :: rest) = x :: windowsTaken draws.tail rest :=
  if_neg (Bool.eq_false_iff.mp h)

theorem windowsTaken_prefix (draws : List Bool) (xs : List (Nat × Nat)) : windowsTaken draws xs <+: xs := by
  induction xs generalizing draws with
  | nil => exact List.prefix_rfl
  | cons x rest ih =>
    cases h : draws.headD false with
    | true => rw [windowsTaken_of_cancel h]; exact List.nil_prefix
    | false => rw [windowsTaken_cons h, List.prefix_cons_inj]; exact ih draws.tail

/-- At the top of the loop a CANCEL_REQ that reads 1 halts the run (R117). -/
theorem transition_idle_cancelled {s : State} (hrun : Running s) (hst : s.st = .idle)
    (hdraw : s.cancelDraws.headD false = true) :
    transition s = .next (haltWith .cancelled { s with cancelDraws := s.cancelDraws.tail }) := by
  unfold transition
  rw [hst]
  unfold topOfLoop
  simp only [readCancel_fst, readCancel_snd, hdraw, if_true]
  exact requireOp_some (s := { s with cancelDraws := s.cancelDraws.tail }) hrun hst _

/-- From IDLE with the four cursors on one sample, the block goes through the windows it takes and halts, within four
transitions for each sample left and one more. -/
theorem reaches_halted {s : State} {p : Nat} (hst : s.st = .idle) (hcur : s.cur = Cursors.all p) (hp : p < s.size) :
    ∃ n t, n ≤ 4 * (s.size - p) + 1 ∧ Reaches n s t ∧ t.st = .halted ∧
      t.out = s.out ++ (windowsTaken s.cancelDraws (windowsAfter s.capture p)).flatMap
        fun x => messagesOfWindow s.capture x.1 x.2 := by
  have hcsn : s.cur.csn = p := by rw [hcur]; rfl
  have hrun : Running s := running_of_lt_size hp (by simp [hst])
  induction hk : s.size - p using Nat.strong_induction_on generalizing s p with
  | _ k ih =>
    cases hdraw : s.cancelDraws.headD false with
    | true =>
      exact ⟨1, _, by omega, reaches_of_transition hrun.2 (transition_idle_cancelled hrun hst hdraw), rfl,
        by rw [windowsTaken_of_cancel hdraw, List.flatMap_nil, List.append_nil]; rfl⟩
    | false =>
      rcases windowsAfter_cases s.capture p with ⟨hnil, hnone⟩ | ⟨a, d, hwin, hcons⟩
      · rw [hnil]
        exact ⟨1, _, by omega,
          reaches_of_transition hrun.2 (transition_idle_exhausted hrun hst hdraw (by rwa [hcsn])), rfl,
          (List.append_nil _).symm⟩
      · have hpa : p < a := hwin.1.1
        have had : a < d := hwin.2.1
        have hd : d < s.size := hwin.2.lt_length
        obtain ⟨u, hreach, hust, hucur, hucap, hudraws, huout⟩ :=
          reaches_next_window hst hdraw (by rwa [hcsn]) fun c => by rw [hcur, Cursors.get_all]; omega
        have husize : u.size = s.size := congrArg List.length hucap
        rw [← husize] at hd
        obtain ⟨n, t, hn, hreach2, htst, htout⟩ := ih (u.size - d) (by omega) hust hucur hd (by rw [hucur]; rfl)
          (running_of_lt_size hd (by simp [hust])) rfl
        have hcount := window_transitions_le s.capture had
        refine ⟨_, t, by omega, hreach.trans hreach2, htst, ?_⟩
        rw [htout, huout, hucap, hudraws, hcons, windowsTaken_cons hdraw, List.flatMap_cons, List.append_assoc]

/-- RUN from reset emits the messages of the windows it takes, whatever the draws (R110, R117, R136). -/
theorem exec_run_startOf {w : List Instant} (hw : w ≠ []) (draws : List Bool) :
    ∃ t, exec .run (startOf w draws) = .next t ∧
      t.out = (windowsTaken draws (windowsOf w)).flatMap fun x => messagesOfWindow w x.1 x.2 := by
  have hsize : 0 < (startOf w draws).size := List.length_pos_of_ne_nil hw
  obtain ⟨n, t, hn, hreach, hst, hout⟩ := reaches_halted (s := startOf w draws) (p := 0) rfl rfl hsize
  obtain ⟨left, hleft⟩ : ∃ left, runBound (startOf w draws) = n + left :=
    Nat.exists_eq_add_of_le (by unfold runBound; omega)
  have hidle : (startOf w draws).st ≠ .halted := by simp [startOf, State.reset]
  refine ⟨t, (requireOp_some ⟨hw, hidle⟩ rfl _).trans ?_, ?_⟩
  · rw [hleft, hreach, runTransitions_halted hst]
  · rw [hout, ← windowsAfter_zero]
    rfl

end Sys2Proof.Machine

end

-- ==== Outputs: where the markers and reports stand ====
section
/-! PROOFS. The samples of a window's markers and of its progress report (R132, R135, R136), and their order over a whole
run (R137). -/

namespace Sys2Proof.Machine

/-! ### The samples of one window -/

/-- The sampling points of a window that belong to a complete word: the first `8 * floor(m / 8)` (R98). -/
def wordPoints (w : List Instant) (a d : Nat) : List Nat :=
  (samplingPoints w a d).take (8 * ((samplingPoints w a d).length / 8))

/-- Where the markers of a window stand on a channel: on chip-select at the two ends of the window, on the clock and the
data lines at the points of its words. -/
def markerPoints (w : List Instant) (a d : Nat) : Channel → List Nat
  | .csn => [a, d]
  | .sck | .mosi | .miso => wordPoints w a d

theorem markerSamples_append (c : Channel) (xs ys : List Message) :
    markerSamples c (xs ++ ys) = markerSamples c xs ++ markerSamples c ys :=
  List.filterMap_append

theorem markerSamples_flatMap {α : Type} (c : Channel) (f : α → List Message) (xs : List α) :
    markerSamples c (xs.flatMap f) = xs.flatMap fun x => markerSamples c (f x) :=
  List.filterMap_flatMap

/-- A byte has no marker on chip-select. -/
theorem markerSamples_csn_byte (b : SampledByte) : markerSamples .csn (markersOfByte b) = [] := by
  have hbit : ∀ m, markerSamples .csn (markersOfBit m) = [] := fun _ => rfl
  simp [markersOfByte, markerSamples_flatMap, hbit]

/-- On the clock and on each data line a byte has one marker for each bit, at the bit's sample (R132). -/
theorem markerSamples_byte {c : Channel} (hc : c ≠ .csn) (b : SampledByte) :
    markerSamples c (markersOfByte b) = b.marks.toList.map BitMarker.sample := by
  have hbit : ∀ m, markerSamples c (markersOfBit m) = [m.sample] := fun m => by
    cases c with
    | csn => exact absurd rfl hc
    | sck | mosi | miso => simp [markerSamples, markersOfBit]
  simp only [markersOfByte, markerSamples_flatMap, hbit, List.map_eq_flatMap]

/-- The markers of the words of a list of points stand at the points, a last incomplete group of eight left out. -/
theorem markerSamples_words {c : Channel} (hc : c ≠ .csn) (w : List Instant) (pts : List Nat) :
    markerSamples c ((wordsOfPoints w pts).flatMap markersOfByte) = pts.take (8 * (pts.length / 8)) := by
  induction hn : pts.length using Nat.strong_induction_on generalizing pts with
  | _ n ih =>
    rcases Nat.lt_or_ge pts.length 8 with hlen | hlen
    · rw [wordsOfPoints_short w hlen, Nat.div_eq_of_lt (by omega)]
      rfl
    · have hword : (wordOfPoints w (pts.take 8)).marks.toList.map BitMarker.sample = pts.take 8 := by
        rw [wordOfPoints_marks_toList w (by rw [List.length_take]; omega), List.map_map]
        exact List.map_id _
      have hcount : 8 * (n / 8) = 8 + 8 * ((n - 8) / 8) := by omega
      rw [wordsOfPoints_long w hlen, List.flatMap_cons, markerSamples_append, markerSamples_byte hc, hword,
        ih (n - 8) (by omega) (pts.drop 8) (by rw [List.length_drop, hn]), hcount, List.take_add]

theorem markerSamples_window (c : Channel) (w : List Instant) (a d : Nat) :
    markerSamples c (messagesOfWindow w a d) = markerPoints w a d c := by
  have hwords : markerSamples c ((wordsOfWindow w a d).flatMap markersOfByte) =
      if c = .csn then [] else wordPoints w a d := by
    split
    case isTrue hc => simp [hc, markerSamples_flatMap, markerSamples_csn_byte]
    case isFalse hc => exact markerSamples_words hc w _
  rw [messagesOfWindow, markerSamples_append, markerSamples_append, hwords]
  cases c <;> simp [markerSamples, markerPoints]

theorem progressSamples_window (w : List Instant) (a d : Nat) : progressSamples (messagesOfWindow w a d) = [d] := by
  have hbytes : progressSamples ((wordsOfWindow w a d).flatMap markersOfByte) = [] := by
    simp [progressSamples, List.filterMap_flatMap, markersOfByte, markersOfBit]
  unfold progressSamples at hbytes ⊢
  simp [messagesOfWindow, hbytes]

/-! ### Their order in one window -/

theorem samplingPoints_pairwise (w : List Instant) (a d : Nat) : (samplingPoints w a d).Pairwise (· < ·) :=
  (List.pairwise_lt_range.filter _).filter _

theorem markerPoints_pairwise {a d : Nat} (h : a < d) (w : List Instant) (c : Channel) :
    (markerPoints w a d c).Pairwise (· < ·) := by
  cases c with
  | csn => exact List.pairwise_pair.mpr h
  | sck | mosi | miso => exact (samplingPoints_pairwise w a d).sublist (List.take_sublist _ _)

/-- Every marker of a window stands in it, its two ends included. -/
theorem markerPoints_in_window {w : List Instant} {a d p : Nat} {c : Channel} (h : a < d)
    (hp : p ∈ markerPoints w a d c) : a ≤ p ∧ p ≤ d := by
  have hline : p ∈ wordPoints w a d → a ≤ p ∧ p ≤ d := fun hmem => by
    have := lt_of_mem_pointsFrom (first := true) (List.mem_of_mem_take hmem)
    omega
  cases c with
  | csn =>
    rcases List.mem_pair.mp hp with rfl | rfl <;> omega
  | sck | mosi | miso => exact hline hp

/-! ### Their order over the windows of a capture -/

/-- A window ends after it starts. -/
theorem lt_of_mem_windowsOf {w : List Instant} {x : Nat × Nat} (h : x ∈ windowsOf w) : x.1 < x.2 := by
  obtain ⟨a, -, ha⟩ := List.mem_filterMap.mp h
  split at ha
  · obtain ⟨d, hd, rfl⟩ := Option.map_eq_some_iff.mp ha
    exact ((nextEdge_eq_some_iff w .csn a d).mp hd).1
  · cases ha

/-- Windows in a row: each ends after it starts, and before any later one starts (R119). -/
structure WindowsInOrder (xs : List (Nat × Nat)) : Prop where
  nonempty : ∀ x ∈ xs, x.1 < x.2
  apart : xs.Pairwise fun x y => x.2 < y.1

theorem windowsTaken_inOrder (w : List Instant) (draws : List Bool) :
    WindowsInOrder (windowsTaken draws (windowsOf w)) where
  nonempty x hx := lt_of_mem_windowsOf ((windowsTaken_prefix draws _).subset hx)
  apart := by
    have hall := windowsAfter_pairwise w 0
    rw [windowsAfter_zero] at hall
    exact hall.sublist (windowsTaken_prefix draws _).sublist

/-- Points that stand each in its own window, ascending there, ascend over windows in a row. -/
theorem WindowsInOrder.flatMap_pairwise {xs : List (Nat × Nat)} (hxs : WindowsInOrder xs) {f : Nat × Nat → List Nat}
    (hasc : ∀ x ∈ xs, (f x).Pairwise (· < ·)) (hin : ∀ x ∈ xs, ∀ p ∈ f x, x.1 ≤ p ∧ p ≤ x.2) :
    (xs.flatMap f).Pairwise (· < ·) := by
  refine List.pairwise_flatMap.mpr ⟨hasc, hxs.apart.imp_of_mem fun {x y} hx hy hxy p hp q hq => ?_⟩
  have hpx := hin x hx p hp
  have hqy := hin y hy q hq
  omega

end Sys2Proof.Machine

open Sys2Proof Sys2Proof.Machine

/-- Settles O41: whatever the draws, the run emits the messages of windows that follow one another, every marker and report of
a window stands inside it, and the clock and the data lines have their markers at the same sampling points. -/
theorem markersAndProgressIncrease : Obligations.MarkersAndProgressIncrease := by
  intro w draws hw
  obtain ⟨t, hexec, hout⟩ := exec_run_startOf hw draws
  have horder := windowsTaken_inOrder w draws
  have hmarks : ∀ c, markerSamples c t.out =
      (windowsTaken draws (windowsOf w)).flatMap fun x => markerPoints w x.1 x.2 c := fun c => by
    simp only [hout, markerSamples_flatMap, markerSamples_window]
  have hreports : progressSamples t.out = (windowsTaken draws (windowsOf w)).flatMap fun x => [x.2] := by
    rw [hout, progressSamples, List.filterMap_flatMap]
    exact congrArg (List.flatMap · _) (funext fun x => progressSamples_window w x.1 x.2)
  refine ⟨t, hexec, fun c => ?_, ?_, (hmarks .sck).trans (hmarks .mosi).symm, (hmarks .sck).trans (hmarks .miso).symm⟩
  · rw [hmarks c]
    exact horder.flatMap_pairwise (fun x hx => markerPoints_pairwise (horder.nonempty x hx) w c)
      fun x hx p => markerPoints_in_window (horder.nonempty x hx)
  · rw [hreports]
    refine horder.flatMap_pairwise (fun x _ => List.pairwise_singleton _ _) fun x hx p hp => ?_
    rw [List.mem_singleton.mp hp]
    exact ⟨Nat.le_of_lt (horder.nonempty x hx), Nat.le_refl _⟩

end

-- ==== Downstream: classification of command bytes ====
section
/-! PROOFS. R145's table: a row compares the bits of a byte from some place up, rows whose patterns differ where both compare
exclude each other, and the first row that is met gives the class. -/

namespace Sys2Proof

/-! ### One row -/

theorem CmdRow.hits_iff (r : CmdRow) (b : Byte) : r.hits b = true ↔ b &&& r.mask = r.pattern :=
  decide_eq_true_iff

/-- A mask of the bits from `k` up clears the bits below. -/
theorem toNat_and_highMask (b : Byte) (k : Nat) :
    (b &&& (BitVec.allOnes 8 <<< k)).toNat = b.toNat / 2 ^ k * 2 ^ k := by
  have hlt : b.toNat / 2 ^ k * 2 ^ k < 2 ^ 8 := lt_of_le_of_lt (Nat.div_mul_le_self _ _) b.isLt
  rw [← BitVec.shiftLeft_ushiftRight, BitVec.toNat_shiftLeft, BitVec.toNat_ushiftRight, Nat.shiftLeft_eq,
    Nat.shiftRight_eq_div_pow, Nat.mod_eq_of_lt hlt]

theorem and_highMask_eq_iff (b p : Byte) (k : Nat) :
    b &&& (BitVec.allOnes 8 <<< k) = p &&& (BitVec.allOnes 8 <<< k) ↔ b.toNat / 2 ^ k = p.toNat / 2 ^ k := by
  rw [← BitVec.toNat_inj, toNat_and_highMask, toNat_and_highMask, Nat.mul_left_inj (Nat.two_pow_pos k).ne']

/-- A row that compares the bits from `k` up, with a pattern that has none below, asks for the number that the pattern has
above them. -/
theorem hits_highMask_iff {p : Byte} {k : Nat} (hp : p &&& (BitVec.allOnes 8 <<< k) = p) (op : CmdOpcode) (b : Byte) :
    (CmdRow.mk (BitVec.allOnes 8 <<< k) p op).hits b = true ↔ b.toNat / 2 ^ k = p.toNat / 2 ^ k := by
  rw [CmdRow.hits_iff, ← and_highMask_eq_iff, hp]

/-! ### The table's three masks: the high three bits, the high five and all eight -/

theorem hits_registerMask_iff {p : Byte} (hp : p &&& 0xE0 = p) (op : CmdOpcode) (b : Byte) :
    (CmdRow.mk 0xE0 p op).hits b = true ↔ b.toNat / 32 = p.toNat / 32 :=
  hits_highMask_iff (k := 5) hp op b

theorem hits_pipeMask_iff {p : Byte} (hp : p &&& 0xF8 = p) (op : CmdOpcode) (b : Byte) :
    (CmdRow.mk 0xF8 p op).hits b = true ↔ b.toNat / 8 = p.toNat / 8 :=
  hits_highMask_iff (k := 3) hp op b

theorem hits_fullMask_iff (p : Byte) (op : CmdOpcode) (b : Byte) :
    (CmdRow.mk 0xFF p op).hits b = true ↔ b.toNat = p.toNat := by
  have h := hits_highMask_iff (k := 0) (BitVec.and_allOnes (x := p)) op b
  rwa [Nat.pow_zero, Nat.div_one, Nat.div_one] at h

/-! ### No two rows meet one byte -/

/-- The patterns of two rows differ on a bit that both compare. -/
def CmdRow.Excludes (r q : CmdRow) : Prop := r.pattern &&& q.mask ≠ q.pattern &&& r.mask

theorem CmdRow.Excludes.not_hits {r q : CmdRow} (h : r.Excludes q) {b : Byte} (hr : r.hits b = true) :
    ¬ q.hits b = true := fun hq => by
  rw [CmdRow.hits_iff] at hr hq
  refine h ?_
  rw [← hr, ← hq, BitVec.and_assoc, BitVec.and_assoc, BitVec.and_comm r.mask]

theorem cmdRows_exclude : cmdRows.Pairwise CmdRow.Excludes := by
  unfold CmdRow.Excludes
  decide

theorem length_filter_hits_le_one {rows : List CmdRow} (h : rows.Pairwise CmdRow.Excludes) (b : Byte) :
    (rows.filter fun r => r.hits b).length ≤ 1 := by
  have hpair : (rows.filter fun r => r.hits b).Pairwise fun _ _ => False :=
    List.pairwise_filter.mpr (h.imp fun hex hr hq => hex.not_hits hr hq)
  generalize rows.filter (fun r => r.hits b) = met at hpair
  match met with
  | [] => exact Nat.zero_le 1
  | [_] => exact Nat.le_refl 1
  | _ :: _ :: _ => exact (List.rel_of_pairwise_cons hpair List.mem_cons_self).elim

/-! ### The first row that is met -/

/-- The opcode of the first of these rows that the byte meets. -/
def firstOpcode (b : Byte) : List CmdRow → CmdOpcode
  | [] => .undefined
  | r :: rest => if r.hits b = true then r.opcode else firstOpcode b rest

theorem firstOpcode_eq_find? (b : Byte) (rows : List CmdRow) :
    firstOpcode b rows = ((rows.find? fun r => r.hits b).map CmdRow.opcode).getD .undefined := by
  induction rows with
  | nil => rfl
  | cons r rest ih => cases h : r.hits b <;> simp [firstOpcode, h, ih]

theorem classify_eq_firstOpcode (b : Byte) : classify b = firstOpcode b cmdRows := by
  rw [firstOpcode_eq_find?, classify]
  cases cmdRows.find? fun r => r.hits b <;> rfl

/-! ### The fields of a command byte -/

theorem cmdRegister_toNat (b : Byte) : (cmdRegister b).toNat = b.toNat % 32 :=
  BitVec.extractLsb'_toNat 0 5 b

theorem cmdPipe_toNat (b : Byte) : (cmdPipe b).toNat = b.toNat % 8 :=
  BitVec.extractLsb'_toNat 0 3 b

end Sys2Proof

namespace Sys2Proof.Machine

theorem registerName_eq (r : BitVec 5) :
    registerName r = if r.toNat = 31 then .undefinedRegister else .defined r :=
  if_congr BitVec.toNat_inj.symm rfl rfl

/-! ### A Transaction of 1 to 33 bytes -/

/-- The number of bytes alone decides whether frames come out; the CommandFrame is the first byte's. -/
theorem assemble_cons {t : Transaction} {b : SampledByte} {rest : List SampledByte}
    (ht : t.bytes = b :: rest) (hlen : rest.length ≤ 32) (storeLength : Nat) :
    ∃ f d, assemble t storeLength = some (f, d) ∧ f.opcodeByte = b.mosi := by
  have hcap : ¬ Config.maxTxnBytes < (b :: rest).length := Nat.not_lt.mpr (Nat.succ_le_succ hlen)
  rw [assemble, ht, if_neg hcap]
  cases rest with
  | nil => exact ⟨_, _, rfl, rfl⟩
  | cons c more => exact ⟨_, _, rfl, rfl⟩

end Sys2Proof.Machine

open Sys2Proof Sys2Proof.Machine

/-- Settles O49: the first row that is met gives the class, and each row's mask and pattern ask for what the table's first
column says; the rows exclude each other pairwise, and whether a frame comes out depends on the number of bytes alone. -/
theorem classificationFollowsTheTable : Obligations.ClassificationFollowsTheTable := by
  refine ⟨fun b => ⟨cmdRegister_toNat b, cmdPipe_toNat b⟩, length_filter_hits_le_one cmdRows_exclude, registerName_eq,
    fun t b rest n ht hlen => assemble_cons ht hlen n, fun b => ?_⟩
  rw [classify_eq_firstOpcode]
  simp only [cmdRows, firstOpcode, hits_registerMask_iff (p := 0x00) rfl, hits_registerMask_iff (p := 0x20) rfl,
    hits_fullMask_iff, hits_pipeMask_iff (p := 0xA8) rfl]
  rfl

end

-- ==== Hazards: cursors move forward only ====
section
/-! PROOFS. Forward only (R186): no cursor falls behind where it was, for the sequencing, for each operation, for the
transitions of the block and RUN, and the obligation. -/

namespace Sys2Proof.Machine

/-- Where the outcome is a next state, no cursor there is behind its place in `p`. -/
def NeverBehind (p : Cursors) (x : Res State) : Prop := ∀ t, x = .next t → ∀ c, p.get c ≤ t.cur.get c

/-! ### Sequencing and guards -/

theorem neverBehind_of_cur_eq {p : Cursors} {t : State} (h : t.cur = p) : NeverBehind p (.next t) := by
  rintro _ ⟨⟩ c
  rw [h]

theorem neverBehind_refused (p : Cursors) (r : Refusal) : NeverBehind p (.refused r) :=
  fun _ h => nomatch h

theorem neverBehind_fault (p : Cursors) (r : Fault) : NeverBehind p (.fault r) :=
  fun _ h => nomatch h

theorem neverBehind_requireOp {p : Cursors} {go : Res State} (need : Option CtrlState) (s : State)
    (h : NeverBehind p go) : NeverBehind p (requireOp need s go) := by
  intro t ht
  obtain ⟨-, -, hgo⟩ := requireOp_eq_next ht
  exact h t hgo

theorem neverBehind_andThen {p : Cursors} {x : Res State} {f : State → Res State} (hx : NeverBehind p x)
    (hf : ∀ u, NeverBehind u.cur (f u)) : NeverBehind p (andThen x f) := by
  intro t ht c
  obtain ⟨u, hu, hfu⟩ := andThen_eq_next.mp ht
  exact Nat.le_trans (hx u hu c) (hf u t hfu c)

/-- An operation made of a part of the Sampler, whose answer it notes without touching a cursor. -/
theorem neverBehind_noteAnswer {p : Cursors} {x : Res (State × Bool)} {note : State × Bool → State}
    (hx : ∀ u ok, x = .next (u, ok) → ∀ c, p.get c ≤ u.cur.get c) (hnote : ∀ r, (note r).cur = r.1.cur) :
    NeverBehind p (andThen x fun r => .next (note r)) := by
  intro t ht c
  obtain ⟨⟨u, ok⟩, hu, hn⟩ := andThen_eq_next.mp ht
  cases hn
  rw [hnote]
  exact hx u ok hu c

/-! ### Moving cursors -/

theorem Cursors.get_le_get_set {p : Cursors} {c : Channel} {v : Nat} (h : p.get c ≤ v) (c' : Channel) :
    p.get c' ≤ (p.set c v).get c' := by
  by_cases hc : c' = c
  · rw [hc, Cursors.get_set_same]
    exact h
  · rw [Cursors.get_set_other p c c' v hc]

theorem seekTo_neverBehind (c : Channel) (p : Nat) (s : State) : NeverBehind s.cur (seekTo c p s) := by
  intro t ht
  obtain ⟨hfwd, -, rfl⟩ := seekTo_eq_next ht
  exact Cursors.get_le_get_set hfwd

theorem seekAll_neverBehind (p : Nat) (s : State) : NeverBehind s.cur (seekAll p s) := by
  intro t ht c
  obtain ⟨hfwd, -, rfl⟩ := seekAll_eq_next.mp ht
  rw [Cursors.get_all]
  exact hfwd c

theorem syncLines_neverBehind (s : State) : NeverBehind s.cur (syncLines s) := by
  intro t ht c
  obtain ⟨hfwd, -, rfl⟩ := syncLines_eq_next.mp ht
  rw [Cursors.get_all]
  exact hfwd c

theorem cursors_le_of_sampleByte {first : Bool} {s t : State} {ok : Bool} (h : sampleByte first s = .next (t, ok)) :
    ∀ c, s.cur.get c ≤ t.cur.get c := by
  obtain ⟨-, -, hfwd⟩ := sampleByte_frame h
  exact hfwd

/-- NEXTEDGE that goes on found an edge after its cursor, and moved that cursor to it (R82). -/
theorem execNextedge_eq_next {s t : State} {c : Channel} (h : execNextedge c s = .next t) :
    ∃ e, IsNextEdge s.capture c (s.cur.get c) e ∧ t.cur = s.cur.set c e := by
  obtain ⟨-, -, h⟩ := requireOp_eq_next h
  cases he : nextEdge s.capture c (s.cur.get c) with
  | none =>
    rw [he] at h
    cases h
  | some e =>
    rw [he] at h
    cases h
    exact ⟨e, (nextEdge_eq_some_iff _ _ _ _).mp he, rfl⟩

theorem execNextedge_neverBehind (c : Channel) (s : State) : NeverBehind s.cur (execNextedge c s) := by
  intro t ht
  obtain ⟨e, he, hcur⟩ := execNextedge_eq_next ht
  rw [hcur]
  exact Cursors.get_le_get_set (Nat.le_of_lt he.1)

/-! ### The operations -/

theorem execBitstate_neverBehind (c : Channel) (s : State) : NeverBehind s.cur (execBitstate c s) := by
  refine neverBehind_requireOp _ _ fun t ht => ?_
  obtain ⟨high, -, ht⟩ := andThen_eq_next.mp ht
  cases ht
  exact fun _ => Nat.le_refl _

theorem execSeek_neverBehind (c : Channel) (p : Nat) (s : State) : NeverBehind s.cur (execSeek c p s) :=
  neverBehind_requireOp _ _ (seekTo_neverBehind c p s)

theorem execPeekedge_neverBehind (c : Channel) (s : State) : NeverBehind s.cur (execPeekedge c s) := by
  refine neverBehind_requireOp _ _ ?_
  split
  · exact neverBehind_refused _ _
  · exact neverBehind_of_cur_eq rfl

theorem execMoreedges_neverBehind (c : Channel) (s : State) : NeverBehind s.cur (execMoreedges c s) :=
  neverBehind_requireOp _ _ (neverBehind_of_cur_eq rfl)

theorem execAdvsck_neverBehind (s : State) : NeverBehind s.cur (execAdvsck s) :=
  neverBehind_requireOp _ _ <|
    neverBehind_noteAnswer (fun u ok hu => (keepsSamplerFrame_advanceClock s u ok hu).2) fun _ => rfl

theorem execSync_neverBehind (s : State) : NeverBehind s.cur (execSync s) :=
  neverBehind_requireOp _ _ (syncLines_neverBehind s)

theorem execSamplebit_neverBehind (s : State) : NeverBehind s.cur (execSamplebit s) :=
  neverBehind_requireOp _ _ <|
    neverBehind_noteAnswer (fun u ok hu => (keepsSamplerFrame_sampleBit s u ok hu).2) fun _ => rfl

theorem execSamplebyte_neverBehind (first : Bool) (s : State) : NeverBehind s.cur (execSamplebyte first s) :=
  neverBehind_requireOp _ _ <| neverBehind_noteAnswer (fun _ _ => cursors_le_of_sampleByte) fun _ => rfl

theorem execEmitmark_neverBehind (p : Nat) (kind : MarkKind) (c : Channel) (s : State) :
    NeverBehind s.cur (execEmitmark p kind c s) :=
  neverBehind_requireOp _ _ (neverBehind_of_cur_eq rfl)

theorem handOver_neverBehind (s : State) : NeverBehind s.cur (handOver s) := by
  unfold handOver
  split
  · exact neverBehind_of_cur_eq rfl
  · exact neverBehind_refused _ _

theorem execEmittxn_neverBehind (s : State) : NeverBehind s.cur (execEmittxn s) :=
  neverBehind_requireOp _ _ (handOver_neverBehind s)

theorem execProgress_neverBehind (p : Nat) (s : State) : NeverBehind s.cur (execProgress p s) :=
  neverBehind_requireOp _ _ (neverBehind_of_cur_eq rfl)

theorem execHalt_neverBehind (cause : HaltCause) (s : State) : NeverBehind s.cur (execHalt cause s) := by
  refine neverBehind_requireOp _ _ ?_
  split
  · exact neverBehind_refused _ _
  · exact neverBehind_of_cur_eq rfl

theorem execFindsel_neverBehind (s : State) : NeverBehind s.cur (execFindsel s) := by
  refine neverBehind_requireOp _ _ ?_
  split <;> exact neverBehind_of_cur_eq rfl

theorem execOpentxn_neverBehind (a d : Nat) (s : State) : NeverBehind s.cur (execOpentxn a d s) :=
  neverBehind_requireOp _ _ <| neverBehind_andThen (seekAll_neverBehind a { s with selLow := a, selHigh := d })
    fun _ => neverBehind_of_cur_eq rfl

theorem execCollect_neverBehind (s : State) : NeverBehind s.cur (execCollect s) :=
  neverBehind_requireOp _ _ <| neverBehind_noteAnswer (fun _ _ => cursors_le_of_sampleByte) fun _ => rfl

theorem retainByte_cur (s : State) : (retainByte s).cur = s.cur := by
  unfold retainByte
  split <;> rfl

theorem execPushbyte_neverBehind (s : State) : NeverBehind s.cur (execPushbyte s) :=
  neverBehind_requireOp _ _ <| neverBehind_of_cur_eq (retainByte_cur _)

theorem execClosetxn_neverBehind (s : State) : NeverBehind s.cur (execClosetxn s) :=
  neverBehind_requireOp _ _ <| neverBehind_andThen (seekAll_neverBehind s.selHigh s) fun u =>
    neverBehind_andThen (handOver_neverBehind (u.emit _)) fun _ => neverBehind_of_cur_eq rfl

/-! ### The transitions of the block, and RUN -/

/-- Reading CANCEL_REQ moves no cursor, and each of the three ways on from the top of the loop is an operation. -/
theorem topOfLoop_neverBehind (s : State) : NeverBehind s.cur (topOfLoop s) := by
  have hcur : (readCancel s).2.cur = s.cur := by rw [readCancel_snd]
  unfold topOfLoop
  rw [← hcur]
  dsimp only
  split
  · exact execHalt_neverBehind _ _
  · split
    · exact execHalt_neverBehind _ _
    · exact execOpentxn_neverBehind _ _ _

theorem transition_neverBehind (s : State) : NeverBehind s.cur (transition s) := by
  unfold transition
  cases s.st with
  | idle => exact topOfLoop_neverBehind s
  | inTxn => exact execCollect_neverBehind s
  | byteDone => exact execPushbyte_neverBehind s
  | txnDone => exact execClosetxn_neverBehind s
  | halted => exact neverBehind_fault _ _

theorem runTransitions_neverBehind (left : Nat) : ∀ s, NeverBehind s.cur (runTransitions left s) := by
  induction left with
  | zero =>
    intro s
    unfold runTransitions
    split
    · exact neverBehind_of_cur_eq rfl
    · exact neverBehind_refused _ _
  | succ left ih =>
    intro s
    unfold runTransitions
    split
    · exact neverBehind_of_cur_eq rfl
    · exact neverBehind_andThen (transition_neverBehind s) ih

theorem execRun_neverBehind (s : State) : NeverBehind s.cur (execRun s) :=
  neverBehind_requireOp _ _ (runTransitions_neverBehind _ s)

/-! ### Every instruction and every step -/

/-- A command byte acts on the stage after the block alone. -/
theorem issueCommand_neverBehind (b : Byte) (s : State) : NeverBehind s.cur (.next (issueCommand b s)) :=
  neverBehind_of_cur_eq rfl

theorem exec_neverBehind (i : Instr) (s : State) : NeverBehind s.cur (exec i s) :=
  match i with
  | .bitstate c => execBitstate_neverBehind c s
  | .nextedge c => execNextedge_neverBehind c s
  | .seek c p => execSeek_neverBehind c p s
  | .peekedge c => execPeekedge_neverBehind c s
  | .moreedges c => execMoreedges_neverBehind c s
  | .advsck => execAdvsck_neverBehind s
  | .sync => execSync_neverBehind s
  | .samplebit => execSamplebit_neverBehind s
  | .samplebyte first => execSamplebyte_neverBehind first s
  | .findsel => execFindsel_neverBehind s
  | .opentxn a d => execOpentxn_neverBehind a d s
  | .collect => execCollect_neverBehind s
  | .pushbyte => execPushbyte_neverBehind s
  | .closetxn => execClosetxn_neverBehind s
  | .halt cause => execHalt_neverBehind cause s
  | .run => execRun_neverBehind s
  | .emitmark p kind c => execEmitmark_neverBehind p kind c s
  | .emittxn => execEmittxn_neverBehind s
  | .progress p => execProgress_neverBehind p s
  | .rRegister _ | .wRegister _ | .rRxPayload | .wTxPayload | .flushTx | .flushRx | .reuseTxPl | .activate
  | .rRxPlWid | .wTxPayloadNoack | .nop | .wAckPayload _ => issueCommand_neverBehind _ s

theorem runWord_neverBehind (w : OpWord) (s : State) : NeverBehind s.cur (runWord w s) := by
  unfold runWord
  split
  · exact exec_neverBehind _ s
  · exact issueCommand_neverBehind _ s
  · exact neverBehind_refused _ _

/-- Taking a word from the issue port moves no cursor; the word, or the block by itself, moves them forward. -/
theorem step_neverBehind (s : State) : NeverBehind s.cur (step s) := by
  unfold step
  cases hissue : s.issue with
  | nil =>
    rw [takeIssued_nil hissue]
    exact transition_neverBehind s
  | cons w rest =>
    rw [takeIssued_cons hissue]
    exact runWord_neverBehind w { s with issue := rest }

end Sys2Proof.Machine

open Sys2Proof Sys2Proof.Machine

/-- Settles O29: every step is an operation or a transition made of forward seeks, clock advances and parts that move no
cursor; NEXTEDGE lands on an edge strictly after its cursor. -/
theorem cursorsOnlyMoveForward : Obligations.CursorsOnlyMoveForward := by
  refine ⟨step_neverBehind, fun s t c h => ?_⟩
  obtain ⟨e, he, hcur⟩ := execNextedge_eq_next h
  rw [hcur, Cursors.get_set_same]
  exact he.1

end

-- ==== Guards of the operations ====
section
/-! PROOFS. Where the block's operations stop (R116, U4, U5, U8): each of the nineteen is one guarded by the control state that
its rule names, and the obligations on the guard's three stops and on HALT. -/

namespace Sys2Proof.Machine

/-! ### The guard -/

/-- Without a capture the guard refuses, whatever the control state (U8). -/
theorem requireOp_noCapture {s : State} (h : s.capture = []) (need : Option CtrlState) (go : Res State) :
    requireOp need s go = .refused .noCapture :=
  if_pos h

/-- In HALTED the guard stops as halted (U5). -/
theorem requireOp_halted {s : State} (h : s.capture ≠ []) (hst : s.st = .halted) (need : Option CtrlState)
    (go : Res State) : requireOp need s go = .fault .halted := by
  unfold requireOp
  rw [if_neg h, if_pos hst]

/-- While a run is on, the guard refuses every control state but the one it names (U4). -/
theorem requireOp_wrongState {s : State} {x : CtrlState} (h : Running s) (hst : s.st ≠ x) (go : Res State) :
    requireOp (some x) s go = .refused .wrongControlState := by
  unfold requireOp
  rw [if_neg h.1, if_neg h.2]
  exact if_neg hst

/-- An operation guarded by a control state goes on exactly when a run is on in that state and the operation itself does. -/
theorem requireOp_some_eq_next {x : CtrlState} {s t : State} {go : Res State} :
    requireOp (some x) s go = .next t ↔ Running s ∧ s.st = x ∧ go = .next t := by
  constructor
  · intro h
    obtain ⟨hrun, hst, hgo⟩ := requireOp_eq_next h
    exact ⟨hrun, hst x rfl, hgo⟩
  · rintro ⟨hrun, hst, hgo⟩
    rw [requireOp_some hrun hst, hgo]

theorem requireOp_none_eq_next {s t : State} {go : Res State} :
    requireOp none s go = .next t ↔ Running s ∧ go = .next t := by
  constructor
  · intro h
    obtain ⟨hrun, -, hgo⟩ := requireOp_eq_next h
    exact ⟨hrun, hgo⟩
  · rintro ⟨hrun, hgo⟩
    rw [requireOp_none hrun, hgo]

/-- Every operation of the block is guarded by the control state its rule names. -/
theorem exec_eq_requireOp {i : Instr} (h : isBlock i = true) (s : State) :
    ∃ go, exec i s = requireOp (needsState i) s go := by
  cases i with
  | bitstate | nextedge | seek | peekedge | moreedges | advsck | sync | samplebit | samplebyte | findsel | opentxn
  | collect | pushbyte | closetxn | halt | run | emitmark | emittxn | progress => exact ⟨_, rfl⟩
  | rRegister | wRegister | rRxPayload | wTxPayload | flushTx | flushRx | reuseTxPl | activate | rRxPlWid
  | wTxPayloadNoack | nop | wAckPayload => cases h

/-- Only operations of the block name a control state. -/
theorem isBlock_of_needsState {i : Instr} {x : CtrlState} (h : needsState i = some x) : isBlock i = true := by
  cases i with
  | rRegister | wRegister | rRxPayload | wTxPayload | flushTx | flushRx | reuseTxPl | activate | rRxPlWid
  | wTxPayloadNoack | nop | wAckPayload => cases h
  | _ => rfl

/-! ### The block's own step -/

/-- With no word issued a step is a transition of the block itself. -/
theorem step_of_no_issue {s : State} (h : s.issue = []) : step s = transition s := by
  rw [step, takeIssued_nil h]

theorem transition_idle {s : State} (h : s.st = .idle) : transition s = topOfLoop s := by
  rw [transition, h]

theorem transition_collect {s : State} (h : s.st = .inTxn) : transition s = execCollect s := by
  rw [transition, h]

theorem transition_pushbyte {s : State} (h : s.st = .byteDone) : transition s = execPushbyte s := by
  rw [transition, h]

theorem transition_closetxn {s : State} (h : s.st = .txnDone) : transition s = execClosetxn s := by
  rw [transition, h]

theorem transition_halted {s : State} (h : s.st = .halted) : transition s = .fault .halted := by
  rw [transition, h]

end Sys2Proof.Machine

open Sys2Proof Sys2Proof.Machine

/-- Settles O24: an operation whose rule names a control state is one of the block, so its guard stops it. -/
theorem operationsAreRefusedInOtherControlStates : Obligations.OperationsAreRefusedInOtherControlStates := by
  intro s i x hneed hrun hst
  obtain ⟨go, hexec⟩ := exec_eq_requireOp (isBlock_of_needsState hneed) s
  rw [hexec, hneed]
  exact requireOp_wrongState hrun hst go

/-- Settles O25: the guard looks for the capture first, and at reset there is none. -/
theorem nothingRunsWithoutCapture : Obligations.NothingRunsWithoutCapture := by
  refine ⟨fun s i hblock hcap => ?_, ?_⟩
  · obtain ⟨go, hexec⟩ := exec_eq_requireOp hblock s
    rw [hexec]
    exact requireOp_noCapture hcap _ go
  · rfl

/-- Settles O17: HALT is guarded by IDLE and writes two registers; every operation of the block is guarded against HALTED,
and HALTED has no row in R118's table. -/
theorem haltIsFinal : Obligations.HaltIsFinal := by
  refine ⟨fun s cause hrun hst hcause => ?_, fun s hrun hst => ?_, fun s i hcap hst hblock => ?_,
    fun s hissue hst => ?_⟩
  · exact (requireOp_some hrun hst _).trans (if_neg hcause)
  · exact requireOp_some hrun hst _
  · obtain ⟨go, hexec⟩ := exec_eq_requireOp hblock s
    rw [hexec]
    exact requireOp_halted hcap hst _ go
  · rw [step_of_no_issue hissue]
    exact transition_halted hst

/-- Settles O33: the fields of the reset state, read off. -/
theorem resetIsIdleAtSampleZero : Obligations.ResetIsIdleAtSampleZero := by
  refine ⟨rfl, rfl, fun c => ?_, rfl⟩
  cases c <;> rfl

end

-- ==== Cursor primitives: levels and edges ====
section
/-! PROOFS. BITSTATE, NEXTEDGE, PEEKEDGE and MOREEDGES (R81, R82, R84, R85): while a run is on the three edge primitives are
their match on the next edge, which is R42's. -/

namespace Sys2Proof.Machine

/-- While a run is on, NEXTEDGE with an edge ahead goes to it (R82). -/
theorem exec_nextedge_of_edge {s : State} {c : Channel} {e : Nat} (h : Running s)
    (he : IsNextEdge s.capture c (s.cur.get c) e) :
    exec (.nextedge c) s = .next ((s.setCursor c e).setResult (.edge e)) := by
  refine (requireOp_none h _).trans ?_
  rw [(nextEdge_eq_some_iff _ _ _ _).mpr he]

theorem exec_nextedge_of_no_edge {s : State} {c : Channel} (h : Running s)
    (hno : NoEdgeAfter s.capture c (s.cur.get c)) : exec (.nextedge c) s = .refused .noFurtherEdge := by
  refine (requireOp_none h _).trans ?_
  rw [(nextEdge_eq_none_iff _ _ _).mpr hno]

/-- While a run is on, PEEKEDGE with an edge ahead answers it and moves nothing (R84). -/
theorem exec_peekedge_of_edge {s : State} {c : Channel} {e : Nat} (h : Running s)
    (he : IsNextEdge s.capture c (s.cur.get c) e) : exec (.peekedge c) s = .next (s.setResult (.edge e)) := by
  refine (requireOp_none h _).trans ?_
  rw [(nextEdge_eq_some_iff _ _ _ _).mpr he]

theorem exec_peekedge_of_no_edge {s : State} {c : Channel} (h : Running s)
    (hno : NoEdgeAfter s.capture c (s.cur.get c)) : exec (.peekedge c) s = .refused .noFurtherEdge := by
  refine (requireOp_none h _).trans ?_
  rw [(nextEdge_eq_none_iff _ _ _).mpr hno]

/-- `next_edge` is not INF exactly when some edge lies ahead. -/
theorem nextEdge_isSome_iff (w : List Instant) (c : Channel) (p : Nat) :
    (nextEdge w c p).isSome = true ↔ ∃ e, p < e ∧ edgeAt w c e = true := by
  rw [Option.isSome_iff_exists]
  constructor
  · rintro ⟨e, he⟩
    obtain ⟨hlt, hedge, -⟩ := (nextEdge_eq_some_iff w c p e).mp he
    exact ⟨e, hlt, hedge⟩
  · rintro ⟨q, hlt, hedge⟩
    obtain ⟨e, he⟩ := exists_least_edge hlt hedge
    exact ⟨e, (nextEdge_eq_some_iff w c p e).mpr he⟩

end Sys2Proof.Machine

open Sys2Proof Sys2Proof.Machine

/-- Settles O1: the read is inside the capture, and the result is all that is written. -/
theorem bitstateAnswersLevelAtCursor : Obligations.BitstateAnswersLevelAtCursor := by
  intro s c hrun hin
  refine (requireOp_none hrun _).trans ?_
  rw [readLevel_inside hin]
  rfl

/-- Settles O2: at the next edge the level is the complement, and the move sets one cursor. -/
theorem nextedgeMovesCursorToNextEdge : Obligations.NextedgeMovesCursorToNextEdge := by
  intro s c hrun
  refine ⟨fun e he => ⟨highAt_nextEdge he, _, exec_nextedge_of_edge hrun he, ?_, fun c' hc => ?_, rfl⟩,
    exec_nextedge_of_no_edge hrun⟩
  · exact Cursors.get_set_same s.cur c e
  · exact Cursors.get_set_other s.cur c c' e hc

/-- Settles O4: PEEKEDGE and NEXTEDGE match on the same next edge. -/
theorem peekedgeAnswersNextEdgeWithoutMoving : Obligations.PeekedgeAnswersNextEdgeWithoutMoving := by
  intro s c hrun
  exact ⟨fun e he => ⟨exec_peekedge_of_edge hrun he, _, exec_nextedge_of_edge hrun he, rfl⟩,
    exec_peekedge_of_no_edge hrun⟩

/-- Settles O5: the bit says whether `next_edge` is INF. -/
theorem moreedgesTellsWhetherAnEdgeIsLeft : Obligations.MoreedgesTellsWhetherAnEdgeIsLeft := by
  intro s c hrun
  exact ⟨_, requireOp_none hrun _, nextEdge_isSome_iff s.capture c (s.cur.get c)⟩

end

-- ==== Sampler: the four operations ====
section
/-! PROOFS. ADVSCK, SAMPLEBIT and SAMPLEBYTE as instructions (R90 to R98), what a completed byte looks like (R18, R96), and
COLLECT as one call of the Sampler (R113). -/

namespace Sys2Proof.Machine

/-! ### The instructions -/

theorem exec_advsck {s : State} (h : Running s) (hst : s.st = .inTxn) :
    exec .advsck s = andThen (advanceClock s) fun r => .next (r.1.setResult (if r.2 then .ok else .fail)) :=
  requireOp_some h hst _

theorem exec_samplebit {s : State} (h : SamplerReady s) :
    exec .samplebit s = andThen (sampleBit s) fun r => .next (r.1.setResult (if r.2 then .none else .endOfTxn)) :=
  requireOp_some h.running h.inTxn _

theorem exec_samplebyte {s : State} (first : Bool) (h : SamplerReady s) :
    exec (.samplebyte first) s =
      andThen (sampleByte first s) fun r => .next (r.1.setResult (if r.2 then .word else .endOfTxn)) :=
  requireOp_some h.running h.inTxn _

theorem exec_collect {s : State} (h : SamplerReady s) :
    exec .collect s = andThen (sampleByte s.first s) fun r => .next (afterSampler r.2 r.1) :=
  requireOp_some h.running h.inTxn _

/-- In falling-edge mode SAMPLEBIT advances the clock first (R94). -/
theorem sampleBit_of_fall {s : State} (h : s.fall = true) :
    sampleBit s = unlessEnd (advanceClock s) fun s1 => andThen (recordBit s1) fun s2 => .next (s2, true) := by
  rw [sampleBit, if_pos h]

theorem sampleBit_of_not_fall {s : State} (h : s.fall = false) :
    sampleBit s = andThen (recordBit s) fun s2 => .next (s2, true) := by
  rw [sampleBit, if_neg (Bool.eq_false_iff.mp h)]
  rfl

/-- On the Sampler's preconditions the bit at the clock's position is recorded. -/
theorem recordBit_of_ready {s : State} (h : SamplerReady s) : recordBit s = .next (bitRecorded s) :=
  recordBit_eq_next.mpr ⟨h.notAhead, h.clock_lt_size, rfl⟩

/-- SAMPLEBYTE on the Sampler's preconditions: the word of the first eight points ahead, or END on the deassertion sample. -/
theorem sampleByte_cases {s : State} (first : Bool) (h : SamplerReady s) :
    (8 ≤ (pointsFrom s.capture first s.cur.sck s.selHigh).length ∧
      sampleByte first s =
        .next (byteTaken ((pointsFrom s.capture first s.cur.sck s.selHigh).take 8) s, true)) ∨
    ((pointsFrom s.capture first s.cur.sck s.selHigh).length < 8 ∧
      ∃ t, sampleByte first s = .next (t, false) ∧ t.cur = Cursors.all s.selHigh) := by
  rcases Nat.lt_or_ge (pointsFrom s.capture first s.cur.sck s.selHigh).length 8 with hlen | hlen
  · exact .inr ⟨hlen, sampleByte_of_few_points h hlen⟩
  · exact .inl ⟨hlen, sampleByte_of_points h hlen⟩

/-- On the Sampler's preconditions SAMPLEBYTE goes on. -/
theorem exists_sampleByte {s : State} (first : Bool) (h : SamplerReady s) :
    ∃ t ok, sampleByte first s = .next (t, ok) := by
  rcases sampleByte_cases first h with ⟨-, hbyte⟩ | ⟨-, t, hbyte, -⟩
  · exact ⟨_, _, hbyte⟩
  · exact ⟨_, _, hbyte⟩

/-! ### The frame of the Sampler's operations -/

/-- Two states that differ at most in what an operation of the Sampler writes, its result included. -/
def SampledFrame (s t : State) : Prop :=
  t = { s with
        cur := t.cur, fall := t.fall, bitIdx := t.bitIdx, mosiAcc := t.mosiAcc, misoAcc := t.misoAcc
        marks := t.marks, byte := t.byte, result := t.result }

theorem SamplerFrame.sampled {s t : State} (h : SamplerFrame s t) (r : OpResult) : SampledFrame s (t.setResult r) := by
  unfold SamplerFrame at h
  rw [h]
  rfl

theorem sampleByte_sampledFrame {first ok : Bool} {s t : State} (h : sampleByte first s = .next (t, ok))
    (r : OpResult) : SampledFrame s (t.setResult r) := by
  obtain ⟨hframe, -, -⟩ := sampleByte_frame h
  unfold SamplerFrame at hframe
  rw [hframe]
  rfl

/-! ### The bits of a word -/

/-- Bit 0 of a shifted accumulator is the new bit, and each other bit the one below it (R16). -/
theorem getLsbD_shiftIn (acc : Byte) (b : Bool) {k : Nat} (hk : k < 8) :
    (shiftIn acc b).getLsbD k = if k = 0 then b else acc.getLsbD (k - 1) := by
  unfold shiftIn
  rw [BitVec.getLsbD_append]
  cases k with
  | zero => simp
  | succ k => simp [show k < 7 by omega]

/-- Shifted in one after another, the bit that came `k` before the last stands in place `k` (R44). -/
theorem getLsbD_foldl_shiftIn (f : Nat → Bool) (pts : List Nat) (acc : Byte) {k : Nat} (hk : k < 8)
    (hlen : k < pts.length) :
    (pts.foldl (fun acc p => shiftIn acc (f p)) acc).getLsbD k = f (pts.getD (pts.length - 1 - k) 0) := by
  induction pts using List.reverseRecOn generalizing k with
  | nil => simp at hlen
  | append_singleton qs q ih =>
    rw [List.length_append, List.length_singleton] at hlen ⊢
    rw [List.foldl_append, List.foldl_cons, List.foldl_nil, getLsbD_shiftIn _ _ hk]
    cases k with
    | zero => simp
    | succ k =>
      have hidx : qs.length + 1 - 1 - (k + 1) = qs.length - 1 - k := by omega
      rw [if_neg (Nat.succ_ne_zero k), Nat.add_sub_cancel, ih (by omega) (by omega), hidx,
        List.getD_append _ _ _ _ (by omega)]

/-- The marker of bit `i` of a word is that of its point `i`. -/
theorem wordOfPoints_mark (w : List Instant) (pts : List Nat) {i : Nat} (h : i < 8) :
    (wordOfPoints w pts).marks[i] = markerAt w (pts.getD i 0) := by
  simp [wordOfPoints]

/-- A word taken at eight ascending points is what R18 says of a SampledByte. -/
theorem wordOfPoints_good (w : List Instant) {pts : List Nat} (hlen : pts.length = 8)
    (hasc : pts.Pairwise (· < ·)) : ByteGood (wordOfPoints w pts) := by
  have hbit : ∀ (f : Nat → Bool) (i : Fin 8),
      (pts.foldl (fun acc p => shiftIn acc (f p)) 0).getLsbD (7 - i.val) = f (pts.getD i.val 0) := fun f i => by
    rw [getLsbD_foldl_shiftIn f pts 0 (by omega) (by omega), hlen]
    congr 2
    omega
  refine ⟨?_, ?_, fun i => ?_, fun i => ?_, fun i => ?_⟩
  · rw [wordOfPoints_mark]; rfl
  · rw [wordOfPoints_mark]; rfl
  · have hi := i.isLt
    change ((wordOfPoints w pts).marks[i.val]).sample < ((wordOfPoints w pts).marks[i.val + 1]).sample
    rw [wordOfPoints_mark, wordOfPoints_mark, List.getD_eq_getElem _ _ (by omega), List.getD_eq_getElem _ _ (by omega)]
    exact List.pairwise_iff_getElem.mp hasc _ _ _ _ (Nat.lt_succ_self _)
  · exact (hbit _ i).trans (congrArg BitMarker.mosi (wordOfPoints_mark w pts i.isLt)).symm
  · exact (hbit _ i).trans (congrArg BitMarker.miso (wordOfPoints_mark w pts i.isLt)).symm

/-! ### The points of a byte -/

theorem pointsFrom_pairwise (w : List Instant) (first : Bool) (p d : Nat) :
    (pointsFrom w first p d).Pairwise (· < ·) := by
  cases first with
  | false => exact (List.pairwise_lt_range.filter _).filter _
  | true => exact samplingPoints_pairwise w p d

/-- At every point after the first the clock is high (R95). -/
theorem highAt_pointsFrom {w : List Instant} {first : Bool} {p d k : Nat} (hk : 1 ≤ k)
    (h : k < (pointsFrom w first p d).length) : highAt w .sck ((pointsFrom w first p d).getD k 0) = true := by
  obtain ⟨j, rfl⟩ : ∃ j, k = j + 1 := ⟨k - 1, by omega⟩
  rcases pointsFrom_cases w first p d with hnil | ⟨q, hcons⟩
  · simp [hnil] at h
  · rw [hcons, List.length_cons] at h
    have hj : j < (risingEdges w q d).length := by omega
    rw [hcons, List.getD_cons_succ, List.getD_eq_getElem _ _ hj]
    exact (List.mem_filter.mp (List.getElem_mem hj)).2

/-- The word of the first eight points after a sample of the window lies in the window (R96). -/
theorem wordOfPoints_inWindow {w : List Instant} {first : Bool} {a p d : Nat} (ha : a ≤ p)
    (hlen : 8 ≤ (pointsFrom w first p d).length) :
    ByteInWindow a d (wordOfPoints w ((pointsFrom w first p d).take 8)) := by
  have htake : ((pointsFrom w first p d).take 8).length = 8 := by rw [List.length_take]; omega
  have hasc := (pointsFrom_pairwise w first p d).sublist (List.take_sublist 8 _)
  have hpoint : ∀ k, (h : k < 8) →
      ((pointsFrom w first p d).take 8).getD k 0 = ((pointsFrom w first p d).take 8)[k] := fun k h =>
    List.getD_eq_getElem _ _ (by omega)
  have hin : ∀ k, k < 8 → p < ((pointsFrom w first p d).take 8).getD k 0 ∧
      ((pointsFrom w first p d).take 8).getD k 0 < d := fun k hk => by
    rw [hpoint k hk]
    exact lt_of_mem_pointsFrom (List.mem_of_mem_take (List.getElem_mem _))
  refine ⟨wordOfPoints_good w htake hasc, Nat.lt_of_le_of_lt ha (hin 0 (by omega)).1, ?_, (hin 7 (by omega)).2⟩
  change ((pointsFrom w first p d).take 8).getD 0 0 < ((pointsFrom w first p d).take 8).getD 7 0
  rw [hpoint 0 (by omega), hpoint 7 (by omega)]
  exact List.pairwise_iff_getElem.mp hasc _ _ _ _ (by omega)

end Sys2Proof.Machine

open Sys2Proof Sys2Proof.Machine

/-- Settles O9: SAMPLEBYTE is the Sampler's call, which the closed form gives in both cases, with its answer noted. -/
theorem samplebyteAnswersWordOfNextEightPoints : Obligations.SamplebyteAnswersWordOfNextEightPoints := by
  intro s first hready
  dsimp only
  rw [exec_samplebyte first hready]
  rcases sampleByte_cases first hready with ⟨hlen, hbyte⟩ | ⟨hlen, t, hbyte, hcur⟩
  · refine ⟨_, by rw [hbyte]; rfl, sampleByte_sampledFrame hbyte _,
      fun _ => ⟨rfl, rfl, ?_, rfl, rfl, rfl, rfl⟩, fun hfew => absurd hlen (Nat.not_le.mpr hfew)⟩
    simp [byteTaken]
  · obtain ⟨-, hkept, -⟩ := sampleByte_frame hbyte
    exact ⟨_, by rw [hbyte]; rfl, sampleByte_sampledFrame hbyte _,
      fun hmany => absurd hlen (Nat.not_lt.mpr hmany), fun _ => ⟨rfl, hkept rfl, hcur⟩⟩

/-- Settles O6: the clock-advance call with an edge before the deassertion sample, and without one. -/
theorem advsckStopsAtDeassertion : Obligations.AdvsckStopsAtDeassertion := by
  intro s hst hcur hhigh hsize
  have hin : s.selHigh < s.size := by omega
  have hrun : Running s := running_of_lt_size hin (by simp [hst])
  rw [exec_advsck hrun hst]
  refine ⟨fun e he hlt => ⟨highAt_nextEdge he, ?_⟩, fun hge => ?_⟩
  · rw [advanceClock_ok he hlt]
    rfl
  · rw [advanceClock_fail hge hcur hin]
    rfl

/-- Settles O8: the bit is recorded at the clock's position, which in falling-edge mode is first moved to the next clock edge
if the window has one. -/
theorem samplebitRecordsAndShiftsOneBit : Obligations.SamplebitRecordsAndShiftsOneBit := by
  intro s hready
  dsimp only
  rw [exec_samplebit hready]
  refine ⟨fun hfall => ?_, fun hfall e he hlt => ?_, fun hfall hge => ?_⟩
  · rw [sampleBit_of_not_fall hfall, recordBit_of_ready hready]
    simp only [andThen_next, if_true, bitRecorded, State.setResult, shiftIn_eq, hfall]
    rfl
  · rw [sampleBit_of_fall hfall, advanceClock_ok he hlt, unlessEnd_next, if_pos rfl,
      recordBit_of_ready (hready.setClock (Nat.le_of_lt he.1) hlt)]
    simp only [andThen_next, if_true, bitRecorded, State.setResult, shiftIn_eq, State.setCursor, hfall]
    rfl
  · rw [sampleBit_of_fall hfall, advanceClock_fail hge hready.cursor_le hready.windowInCapture]
    rfl

/-- Settles O10: a word is answered only at eight points, which ascend inside the window, and the clock is high at every
point but the first. -/
theorem completedByteIsBoundedByItsMarkers : Obligations.CompletedByteIsBoundedByItsMarkers := by
  intro s t first hready hexec hword
  rw [exec_samplebyte first hready] at hexec
  rcases sampleByte_cases first hready with ⟨hlen, hbyte⟩ | ⟨-, u, hbyte, -⟩
  · rw [hbyte, andThen_next] at hexec
    cases hexec
    refine ⟨wordOfPoints_inWindow (hready.afterLow .sck) hlen, rfl, ?_⟩
    have hhigh := highAt_pointsFrom (k := 7) (by omega) hlen
    have hclock : ((pointsFrom s.capture first s.cur.sck s.selHigh).take 8).getD 7 0 =
        (pointsFrom s.capture first s.cur.sck s.selHigh).getD 7 0 := by simp
    rwa [← hclock] at hhigh
  · rw [hbyte, andThen_next] at hexec
    cases hexec
    cases hword

/-- Settles O14: both operations are the same call of the Sampler, and differ in what they note of its answer. -/
theorem collectIsOneSamplerCall : Obligations.CollectIsOneSamplerCall := by
  intro s hready
  rw [exec_samplebyte s.first hready, exec_collect hready]
  obtain ⟨t, ok, hbyte⟩ := exists_sampleByte s.first hready
  have hresult : t.result = s.result := by
    obtain ⟨hframe, -, -⟩ := sampleByte_frame hbyte
    rw [hframe]
  refine ⟨_, _, by rw [hbyte, andThen_next], by rw [hbyte, andThen_next], ?_, ?_⟩
  · cases ok
    · exact .inr rfl
    · exact .inl rfl
  · rw [← hresult]
    cases ok <;> rfl

end

-- ==== Segmenter and outputs: the operations ====
section
/-! PROOFS. FINDSEL, OPENTXN, PUSHBYTE, CLOSETXN, HALT (R111 to R116) and the output operations (R131 to R135): exactly when
each goes on, and to which state. -/

namespace Sys2Proof.Machine

/-! ### When each goes on, and where to -/

theorem execHalt_eq_next {cause : HaltCause} {s t : State} :
    execHalt cause s = .next t ↔ Running s ∧ s.st = .idle ∧ cause ≠ .none ∧ t = haltWith cause s := by
  unfold execHalt
  rw [requireOp_some_eq_next]
  by_cases hcause : cause = .none <;> simp [hcause, eq_comm]

theorem findWindow_eq_none_iff (s : State) :
    findWindow s = none ↔ ¬∃ a d, IsNextWindow s.capture s.cur.csn a d := by
  constructor
  · rintro hnone ⟨a, d, hwin⟩
    rw [(findWindow_eq_some_iff s a d).mpr hwin] at hnone
    cases hnone
  · intro hwin
    rw [Option.eq_none_iff_forall_ne_some]
    exact fun x hx => hwin ⟨x.1, x.2, (findWindow_eq_some_iff s x.1 x.2).mp hx⟩

/-- What FINDSEL answers: the next window as its result, or the run halted as EXHAUSTED (R111). -/
theorem execFindsel_eq_next {s t : State} :
    execFindsel s = .next t ↔ Running s ∧ s.st = .idle ∧
      ((∃ a d, IsNextWindow s.capture s.cur.csn a d ∧ t = s.setResult (.window a d)) ∨
        (¬∃ a d, IsNextWindow s.capture s.cur.csn a d) ∧ t = haltWith .exhausted s) := by
  unfold execFindsel
  rw [requireOp_some_eq_next, ← findWindow_eq_none_iff]
  simp only [← findWindow_eq_some_iff]
  cases findWindow s with
  | none => simp [eq_comm]
  | some x =>
    obtain ⟨a, d⟩ := x
    simp [eq_comm]

/-- The state after OPENTXN (R112). -/
def txnStarted (a d : Nat) (s : State) : State :=
  { s with
    selLow := a, selHigh := d, cur := Cursors.all a, txn := [], first := true
    out := s.out ++ [.mark a .start .csn], st := .inTxn }

theorem txnOpened_eq_txnStarted (a d : Nat) (s : State) :
    txnOpened a d s = txnStarted a d { s with cancelDraws := s.cancelDraws.tail } := rfl

theorem execOpentxn_eq_next {a d : Nat} {s t : State} :
    execOpentxn a d s = .next t ↔
      s.st = .idle ∧ (∀ c, s.cur.get c ≤ a) ∧ a < s.size ∧ t = txnStarted a d s := by
  unfold execOpentxn
  rw [requireOp_some_eq_next, andThen_eq_next]
  constructor
  · rintro ⟨-, hst, u, hu, ht⟩
    obtain ⟨hcur, hin, rfl⟩ := seekAll_eq_next.mp hu
    cases ht
    exact ⟨hst, hcur, hin, rfl⟩
  · rintro ⟨hst, hcur, hin, rfl⟩
    refine ⟨?_, hst, _, seekAll_eq_next.mpr ⟨hcur, hin, rfl⟩, rfl⟩
    exact running_of_lt_size hin (by simp [hst])

theorem execPushbyte_eq_next {s t : State} :
    execPushbyte s = .next t ↔ Running s ∧ s.st = .byteDone ∧ t = bytePushed s := by
  have hpush : { retainByte (s.emitAll (markersOfByte s.byte)) with first := false }.setCtrl .inTxn = bytePushed s := by
    unfold retainByte bytePushed
    split
    · rw [if_pos (by assumption)]; rfl
    · rw [if_neg (by assumption)]; rfl
  unfold execPushbyte
  rw [requireOp_some_eq_next, hpush, Host.Outcome.next.injEq, eq_comm (a := t)]

/-- The Transaction is handed over when it has at most 33 entries (R65, R134). -/
theorem handOver_eq_next {s t : State} :
    handOver s = .next t ↔ s.txn.length ≤ 33 ∧ t = s.emit (.txn (transactionOf s)) := by
  unfold handOver Config.maxTxnBytes
  by_cases hlen : s.txn.length ≤ 33 <;> simp [hlen, eq_comm]

theorem execClosetxn_eq_next {s t : State} :
    execClosetxn s = .next t ↔
      s.st = .txnDone ∧ (∀ c, s.cur.get c ≤ s.selHigh) ∧ s.selHigh < s.size ∧ s.txn.length ≤ 33 ∧ t = txnClosed s := by
  constructor
  · intro h
    unfold execClosetxn at h
    obtain ⟨-, hst, h⟩ := requireOp_some_eq_next.mp h
    obtain ⟨u, hu, h⟩ := andThen_eq_next.mp h
    obtain ⟨v, hv, ht⟩ := andThen_eq_next.mp h
    obtain ⟨hcur, hin, rfl⟩ := seekAll_eq_next.mp hu
    obtain ⟨hlen, rfl⟩ := handOver_eq_next.mp hv
    cases ht
    refine ⟨hst, hcur, hin, hlen, ?_⟩
    simp [txnClosed, returnToIdle, State.emit, State.setCtrl, transactionOf, State.rcount]
  · rintro ⟨hst, hcur, hin, hlen, rfl⟩
    have htrans := transition_txnDone hst hcur hin hlen
    rwa [transition_closetxn hst] at htrans

theorem execEmittxn_eq_next {s t : State} :
    execEmittxn s = .next t ↔
      Running s ∧ s.st = .txnDone ∧ s.txn.length ≤ 33 ∧ t = s.emit (.txn (transactionOf s)) := by
  unfold execEmittxn
  rw [requireOp_some_eq_next, handOver_eq_next]

theorem execCollect_eq_next {s t : State} :
    execCollect s = .next t ↔
      Running s ∧ s.st = .inTxn ∧ ∃ u ok, sampleByte s.first s = .next (u, ok) ∧ t = afterSampler ok u := by
  unfold execCollect
  rw [requireOp_some_eq_next, andThen_eq_next]
  simp [Prod.exists, eq_comm]

/-! ### The markers of a byte -/

/-- A byte's markers in order, bit by bit (R132). -/
theorem markersOfByte_eq (b : SampledByte) :
    markersOfByte b = (List.finRange 8).flatMap fun i => markersOfBit b.marks[i] := by
  have hmarks : b.marks.toList = (List.finRange 8).map fun i => b.marks[i] := by
    refine List.ext_getElem (by simp) fun i h1 h2 => ?_
    simp
  rw [markersOfByte, hmarks, List.flatMap_map]

theorem kindOfDir_eq (x : EdgeDir) : kindOfDir x = if x = .rising then .up else .down := by
  cases x <;> rfl

end Sys2Proof.Machine

open Sys2Proof Sys2Proof.Machine

/-- Settles O12: FINDSEL's search is R111's, and finds nothing exactly when there is no window. -/
theorem findselAnswersNextWindowOrHalts : Obligations.FindselAnswersNextWindowOrHalts := by
  intro s hrun hst
  refine ⟨fun a d hwin => ?_, fun hnone => ?_⟩
  · exact execFindsel_eq_next.mpr ⟨hrun, hst, .inl ⟨a, d, hwin, rfl⟩⟩
  · exact execFindsel_eq_next.mpr ⟨hrun, hst, .inr ⟨hnone, rfl⟩⟩

/-- Settles O13: the four seeks to `a` are forward and inside the capture. -/
theorem opentxnStartsTransactionAtAssertion : Obligations.OpentxnStartsTransactionAtAssertion := by
  intro s a d hst hcur hin
  exact execOpentxn_eq_next.mpr ⟨hst, hcur, hin, rfl⟩

/-- Settles O15: the 24 markers are those of the eight bits in turn, and a byte is kept where there is room. -/
theorem pushbyteEmitsMarkersAndRetainsUpTo33 : Obligations.PushbyteEmitsMarkersAndRetainsUpTo33 := by
  intro s hrun hst
  refine execPushbyte_eq_next.mpr ⟨hrun, hst, ?_⟩
  unfold bytePushed
  rw [markersOfByte_eq]
  simp only [markersOfBit, kindOfDir_eq, kindOfBit]

/-- Settles O16: the seeks to the deassertion sample are legal, and the buffer holds no more than can be handed over. -/
theorem closetxnHandsOverAndReturnsToIdle : Obligations.ClosetxnHandsOverAndReturnsToIdle := by
  intro s hst hcur hin hlen
  exact execClosetxn_eq_next.mpr ⟨hst, hcur, hin, hlen, rfl⟩

/-- Settles O22: the guard and the bound of 33 entries are met. -/
theorem emittxnAppendsTheTransaction : Obligations.EmittxnAppendsTheTransaction := by
  intro s hrun hst hlen
  exact execEmittxn_eq_next.mpr ⟨hrun, hst, hlen, rfl⟩

/-- Settles O23: PROGRESS names no control state and appends one report. -/
theorem progressAppendsOneReport : Obligations.ProgressAppendsOneReport := by
  intro s p hrun
  exact requireOp_none_eq_next.mpr ⟨hrun, rfl⟩

end

-- ==== Frames: what the operations and transitions leave unchanged ====
section
/-! PROOFS. The rows of R118's table as one case distinction over the block's transitions, and what each operation, each
transition and RUN leave unchanged (R40, R80, R92, R113, R122, R130). -/

namespace Sys2Proof.Machine

/-! ### The rows of R118 -/

/-- The six rows of R118's table that lead out of a state, each with its condition and the state it leads to. -/
inductive TransitionRow (s : State) : State → Prop where
  | cancelled (hst : s.st = .idle) (hdraw : s.cancelDraws.headD false = true) :
      TransitionRow s (haltWith .cancelled { s with cancelDraws := s.cancelDraws.tail })
  | exhausted (hst : s.st = .idle) (hdraw : s.cancelDraws.headD false = false)
      (hwin : ¬∃ a d, IsNextWindow s.capture s.cur.csn a d) :
      TransitionRow s (haltWith .exhausted { s with cancelDraws := s.cancelDraws.tail })
  | opened (a d : Nat) (hst : s.st = .idle) (hdraw : s.cancelDraws.headD false = false)
      (hwin : IsNextWindow s.capture s.cur.csn a d) : TransitionRow s (txnOpened a d s)
  | collected (u : State) (ok : Bool) (hst : s.st = .inTxn) (hbyte : sampleByte s.first s = .next (u, ok)) :
      TransitionRow s (afterSampler ok u)
  | pushed (hst : s.st = .byteDone) : TransitionRow s (bytePushed s)
  | closed (hst : s.st = .txnDone) (hlen : s.txn.length ≤ 33) : TransitionRow s (txnClosed s)

/-- The three rows out of IDLE (R117). -/
theorem topOfLoop_row {s t : State} (h : topOfLoop s = .next t) : Running s ∧ TransitionRow s t := by
  unfold topOfLoop at h
  simp only [readCancel_fst, readCancel_snd] at h
  cases hdraw : s.cancelDraws.headD false with
  | true =>
    rw [hdraw, if_pos rfl] at h
    obtain ⟨hrun, hst, -, rfl⟩ := execHalt_eq_next.mp h
    exact ⟨hrun, .cancelled hst hdraw⟩
  | false =>
    rw [hdraw, if_neg Bool.false_ne_true] at h
    cases hfind : findWindow { s with cancelDraws := s.cancelDraws.tail } with
    | none =>
      rw [hfind] at h
      obtain ⟨hrun, hst, -, rfl⟩ := execHalt_eq_next.mp h
      exact ⟨hrun, .exhausted hst hdraw ((findWindow_eq_none_iff _).mp hfind)⟩
    | some x =>
      rw [hfind] at h
      obtain ⟨hst, -, hin, rfl⟩ := execOpentxn_eq_next.mp h
      replace hst : s.st = .idle := hst
      have hrun : Running s := running_of_lt_size (s := s) hin (by simp [hst])
      exact ⟨hrun, .opened x.1 x.2 hst hdraw ((findWindow_eq_some_iff _ _ _).mp hfind)⟩

/-- Every transition of the block is a row of the table (R118). -/
theorem transition_row {s t : State} (h : transition s = .next t) : Running s ∧ TransitionRow s t := by
  cases hst : s.st with
  | idle =>
    rw [transition_idle hst] at h
    exact topOfLoop_row h
  | inTxn =>
    rw [transition_collect hst] at h
    obtain ⟨hrun, -, u, ok, hbyte, rfl⟩ := execCollect_eq_next.mp h
    exact ⟨hrun, .collected u ok hst hbyte⟩
  | byteDone =>
    rw [transition_pushbyte hst] at h
    obtain ⟨hrun, -, rfl⟩ := execPushbyte_eq_next.mp h
    exact ⟨hrun, .pushed hst⟩
  | txnDone =>
    rw [transition_closetxn hst] at h
    obtain ⟨-, -, hin, hlen, rfl⟩ := execClosetxn_eq_next.mp h
    exact ⟨running_of_lt_size hin (by simp [hst]), .closed hst hlen⟩
  | halted =>
    rw [transition_halted hst] at h
    cases h

/-- A step of the block by itself is a row of the table. -/
theorem step_row {s t : State} (hissue : s.issue = []) (h : step s = .next t) : Running s ∧ TransitionRow s t := by
  rw [step_of_no_issue hissue] at h
  exact transition_row h

/-! ### The cursor primitives and the Sampler -/

/-- What a cursor primitive or an operation of the Sampler other than SAMPLEBYTE leaves unchanged. -/
structure PrimitiveFrame (s t : State) : Prop where
  sampled : SampledFrame s t
  byte : t.byte = s.byte

theorem SamplerFrame.primitive {s t : State} (h : SamplerFrame s t) (r : OpResult) :
    PrimitiveFrame s (t.setResult r) := by
  refine ⟨h.sampled r, ?_⟩
  unfold SamplerFrame at h
  rw [h]
  rfl

theorem execBitstate_frame {c : Channel} {s t : State} (h : execBitstate c s = .next t) : PrimitiveFrame s t := by
  obtain ⟨-, h⟩ := requireOp_none_eq_next.mp h
  obtain ⟨high, -, h⟩ := andThen_eq_next.mp h
  cases h
  exact (SamplerFrame.refl s).primitive _

theorem execNextedge_frame {c : Channel} {s t : State} (h : execNextedge c s = .next t) : PrimitiveFrame s t := by
  obtain ⟨-, h⟩ := requireOp_none_eq_next.mp h
  cases he : nextEdge s.capture c (s.cur.get c) with
  | none =>
    rw [he] at h
    cases h
  | some e =>
    rw [he] at h
    cases h
    exact SamplerFrame.primitive (show SamplerFrame s (s.setCursor c e) from rfl) _

theorem execSeek_frame {c : Channel} {p : Nat} {s t : State} (h : execSeek c p s = .next t) : PrimitiveFrame s t := by
  obtain ⟨-, h⟩ := requireOp_none_eq_next.mp h
  obtain ⟨-, -, rfl⟩ := seekTo_eq_next h
  exact SamplerFrame.primitive (show SamplerFrame s (s.setCursor c p) from rfl) s.result

theorem execPeekedge_frame {c : Channel} {s t : State} (h : execPeekedge c s = .next t) : PrimitiveFrame s t := by
  obtain ⟨-, h⟩ := requireOp_none_eq_next.mp h
  cases he : nextEdge s.capture c (s.cur.get c) with
  | none =>
    rw [he] at h
    cases h
  | some e =>
    rw [he] at h
    cases h
    exact (SamplerFrame.refl s).primitive _

theorem execMoreedges_frame {c : Channel} {s t : State} (h : execMoreedges c s = .next t) : PrimitiveFrame s t := by
  obtain ⟨-, h⟩ := requireOp_none_eq_next.mp h
  cases h
  exact (SamplerFrame.refl s).primitive _

/-- A part of the Sampler whose answer is noted in the result field. -/
theorem noteResult_frame {x : Res (State × Bool)} {note : Bool → OpResult} {s t : State}
    (hx : ∀ u ok, x = .next (u, ok) → SamplerFrame s u)
    (h : andThen x (fun r => .next (r.1.setResult (note r.2))) = .next t) : PrimitiveFrame s t := by
  obtain ⟨⟨u, ok⟩, hu, h⟩ := andThen_eq_next.mp h
  cases h
  exact (hx u ok hu).primitive _

theorem execAdvsck_frame {s t : State} (h : execAdvsck s = .next t) : PrimitiveFrame s t := by
  obtain ⟨-, -, h⟩ := requireOp_some_eq_next.mp h
  exact noteResult_frame (note := fun ok => if ok then .ok else .fail)
    (fun u ok hu => (keepsSamplerFrame_advanceClock s u ok hu).1) h

theorem execSync_frame {s t : State} (h : execSync s = .next t) : PrimitiveFrame s t := by
  obtain ⟨-, -, h⟩ := requireOp_some_eq_next.mp h
  obtain ⟨-, -, rfl⟩ := syncLines_eq_next.mp h
  exact SamplerFrame.primitive (show SamplerFrame s { s with cur := Cursors.all s.cur.sck } from rfl) s.result

theorem execSamplebit_frame {s t : State} (h : execSamplebit s = .next t) : PrimitiveFrame s t := by
  obtain ⟨-, -, h⟩ := requireOp_some_eq_next.mp h
  exact noteResult_frame (note := fun ok => if ok then .none else .endOfTxn)
    (fun u ok hu => (keepsSamplerFrame_sampleBit s u ok hu).1) h

theorem execSamplebyte_frame {first : Bool} {s t : State} (h : execSamplebyte first s = .next t) :
    SampledFrame s t := by
  obtain ⟨-, -, h⟩ := requireOp_some_eq_next.mp h
  obtain ⟨⟨u, ok⟩, hu, h⟩ := andThen_eq_next.mp h
  cases h
  exact sampleByte_sampledFrame hu _

/-- COLLECT writes what SAMPLEBYTE writes, and ST in the place of the result. -/
theorem afterSampler_frame {first ok : Bool} {s u : State} (h : sampleByte first s = .next (u, ok)) :
    afterSampler ok u =
      { s with
        cur := u.cur, st := (afterSampler ok u).st, fall := u.fall, bitIdx := u.bitIdx, mosiAcc := u.mosiAcc
        misoAcc := u.misoAcc, marks := u.marks, byte := u.byte } := by
  obtain ⟨hframe, -, -⟩ := sampleByte_frame h
  unfold SamplerFrame at hframe
  rw [hframe]
  rfl

/-! ### What nothing of the block changes -/

/-- What every operation and every transition of the block leave as it is, and how OUT and the buffer may grow: the capture
and the issue port are not written, the stage after the block is not touched, OUT is appended to, and the buffer does not
outgrow 33 entries. -/
structure BlockKeeps (s t : State) : Prop where
  capture : t.capture = s.capture
  issue : t.issue = s.issue
  down : t.down = s.down
  out : s.out <+: t.out
  txn : s.txn.length ≤ 33 → t.txn.length ≤ 33

theorem BlockKeeps.refl (s : State) : BlockKeeps s s := ⟨rfl, rfl, rfl, List.prefix_rfl, id⟩

theorem BlockKeeps.trans {s t u : State} (h1 : BlockKeeps s t) (h2 : BlockKeeps t u) : BlockKeeps s u :=
  ⟨h2.capture.trans h1.capture, h2.issue.trans h1.issue, h2.down.trans h1.down, h1.out.trans h2.out, h2.txn ∘ h1.txn⟩

theorem SampledFrame.keeps {s t : State} (h : SampledFrame s t) : BlockKeeps s t := by
  unfold SampledFrame at h
  rw [h]
  exact ⟨rfl, rfl, rfl, List.prefix_rfl, id⟩

theorem afterSampler_keeps {first ok : Bool} {s u : State} (h : sampleByte first s = .next (u, ok)) :
    BlockKeeps s (afterSampler ok u) := by
  rw [afterSampler_frame h]
  exact ⟨rfl, rfl, rfl, List.prefix_rfl, id⟩

theorem haltWith_keeps (cause : HaltCause) (s : State) : BlockKeeps s (haltWith cause s) :=
  ⟨rfl, rfl, rfl, List.prefix_rfl, id⟩

theorem emit_keeps (m : Message) (s : State) : BlockKeeps s (s.emit m) :=
  ⟨rfl, rfl, rfl, List.prefix_append _ _, id⟩

theorem txnStarted_keeps (a d : Nat) (s : State) : BlockKeeps s (txnStarted a d s) :=
  ⟨rfl, rfl, rfl, List.prefix_append _ _, fun _ => Nat.zero_le 33⟩

theorem txnClosed_keeps (s : State) : BlockKeeps s (txnClosed s) :=
  ⟨rfl, rfl, rfl, List.prefix_append _ _, id⟩

/-- PUSHBYTE adds an entry only where fewer than 33 are in use (R122). -/
theorem bytePushed_keeps (s : State) : BlockKeeps s (bytePushed s) := by
  refine ⟨rfl, rfl, rfl, List.prefix_append _ _, fun hlen => ?_⟩
  unfold bytePushed
  dsimp only
  split
  · rw [List.length_append, List.length_singleton]
    omega
  · exact hlen

/-- Reading a draw of CANCEL_REQ writes the draws alone. -/
theorem BlockKeeps.of_draws {s t : State} {draws : List Bool} (h : BlockKeeps { s with cancelDraws := draws } t) :
    BlockKeeps s t :=
  ⟨h.capture, h.issue, h.down, h.out, h.txn⟩

/-- A transition keeps all this, and the model's result field too, which only an issued operation writes. -/
theorem TransitionRow.keeps {s t : State} (h : TransitionRow s t) : BlockKeeps s t ∧ t.result = s.result := by
  cases h with
  | cancelled => exact ⟨(haltWith_keeps _ _).of_draws, rfl⟩
  | exhausted => exact ⟨(haltWith_keeps _ _).of_draws, rfl⟩
  | opened a d =>
    rw [txnOpened_eq_txnStarted]
    exact ⟨(txnStarted_keeps a d _).of_draws, rfl⟩
  | collected u ok hst hbyte => exact ⟨afterSampler_keeps hbyte, by rw [afterSampler_frame hbyte]⟩
  | pushed => exact ⟨bytePushed_keeps s, rfl⟩
  | closed => exact ⟨txnClosed_keeps s, rfl⟩

/-- Transitions in turn keep what each keeps, and end in HALTED. -/
theorem runTransitions_keeps {left : Nat} {s t : State} (h : runTransitions left s = .next t) :
    t.st = .halted ∧ BlockKeeps s t ∧ t.result = s.result := by
  induction left generalizing s with
  | zero =>
    unfold runTransitions at h
    split at h
    · cases h
      exact ⟨‹_›, BlockKeeps.refl _, rfl⟩
    · cases h
  | succ left ih =>
    unfold runTransitions at h
    split at h
    · cases h
      exact ⟨‹_›, BlockKeeps.refl _, rfl⟩
    · obtain ⟨u, hu, h⟩ := andThen_eq_next.mp h
      obtain ⟨hkeep, hresult⟩ := (transition_row hu).2.keeps
      obtain ⟨hst, hkeep2, hresult2⟩ := ih h
      exact ⟨hst, hkeep.trans hkeep2, hresult2.trans hresult⟩

/-- RUN that goes on is the transitions in turn, from IDLE while a run is on. -/
theorem exec_run_eq_next {s t : State} :
    exec .run s = .next t ↔ Running s ∧ s.st = .idle ∧ runTransitions (runBound s) s = .next t :=
  requireOp_some_eq_next

/-! ### Every operation of the block -/

/-- An operation of the block keeps all this, and only RUN reads CANCEL_REQ (R117). -/
theorem exec_block_keeps {i : Instr} {s t : State} (hblock : isBlock i = true) (h : exec i s = .next t) :
    BlockKeeps s t ∧ (i ≠ .run → t.cancelDraws = s.cancelDraws) := by
  have hsampled : SampledFrame s t → BlockKeeps s t ∧ (i ≠ .run → t.cancelDraws = s.cancelDraws) := fun hf =>
    ⟨hf.keeps, fun _ => by rw [hf]⟩
  cases i with
  | bitstate => exact hsampled (execBitstate_frame h).sampled
  | nextedge => exact hsampled (execNextedge_frame h).sampled
  | seek => exact hsampled (execSeek_frame h).sampled
  | peekedge => exact hsampled (execPeekedge_frame h).sampled
  | moreedges => exact hsampled (execMoreedges_frame h).sampled
  | advsck => exact hsampled (execAdvsck_frame h).sampled
  | sync => exact hsampled (execSync_frame h).sampled
  | samplebit => exact hsampled (execSamplebit_frame h).sampled
  | samplebyte => exact hsampled (execSamplebyte_frame h)
  | findsel =>
    obtain ⟨-, -, ⟨a, d, -, rfl⟩ | ⟨-, rfl⟩⟩ := execFindsel_eq_next.mp h
    · exact hsampled rfl
    · exact ⟨haltWith_keeps _ s, fun _ => rfl⟩
  | opentxn a d =>
    obtain ⟨-, -, -, rfl⟩ := execOpentxn_eq_next.mp h
    exact ⟨txnStarted_keeps a d s, fun _ => rfl⟩
  | collect =>
    obtain ⟨-, -, u, ok, hbyte, rfl⟩ := execCollect_eq_next.mp h
    exact ⟨afterSampler_keeps hbyte, fun _ => by rw [afterSampler_frame hbyte]⟩
  | pushbyte =>
    obtain ⟨-, -, rfl⟩ := execPushbyte_eq_next.mp h
    exact ⟨bytePushed_keeps s, fun _ => rfl⟩
  | closetxn =>
    obtain ⟨-, -, -, -, rfl⟩ := execClosetxn_eq_next.mp h
    exact ⟨txnClosed_keeps s, fun _ => rfl⟩
  | halt =>
    obtain ⟨-, -, -, rfl⟩ := execHalt_eq_next.mp h
    exact ⟨haltWith_keeps _ s, fun _ => rfl⟩
  | run =>
    obtain ⟨-, -, hrun⟩ := exec_run_eq_next.mp h
    obtain ⟨-, hkeep, -⟩ := runTransitions_keeps hrun
    exact ⟨hkeep, fun hne => absurd rfl hne⟩
  | emitmark =>
    obtain ⟨-, h⟩ := requireOp_none_eq_next.mp h
    cases h
    exact ⟨emit_keeps _ s, fun _ => rfl⟩
  | emittxn =>
    obtain ⟨-, -, -, rfl⟩ := execEmittxn_eq_next.mp h
    exact ⟨emit_keeps _ s, fun _ => rfl⟩
  | progress =>
    obtain ⟨-, h⟩ := requireOp_none_eq_next.mp h
    cases h
    exact ⟨emit_keeps _ s, fun _ => rfl⟩
  | rRegister | wRegister | rRxPayload | wTxPayload | flushTx | flushRx | reuseTxPl | activate | rRxPlWid
  | wTxPayloadNoack | nop | wAckPayload => cases hblock

/-! ### Every step -/

/-- An instruction that is not of the block meets the stage after it with a command byte (R140, R145). -/
theorem exec_command {i : Instr} (h : isBlock i = false) (s : State) : ∃ b, exec i s = .next (issueCommand b s) := by
  cases i with
  | rRegister | wRegister | rRxPayload | wTxPayload | flushTx | flushRx | reuseTxPl | activate | rRxPlWid
  | wTxPayloadNoack | nop | wAckPayload => exact ⟨_, rfl⟩
  | _ => cases h

/-- Everything a step can do, as far as the stage after the block, the capture, OUT and the buffer's bound go: the block
keeps them or lets them grow, or an issued command byte meets the stage after the block. -/
theorem step_cases {s t : State} (h : step s = .next t) :
    BlockKeeps { s with issue := s.issue.tail } t ∨
      ∃ b, t = issueCommand b { s with issue := s.issue.tail } := by
  cases hissue : s.issue with
  | nil =>
    have hkeep := (step_row hissue h).2.keeps.1
    exact .inl ⟨hkeep.capture, hkeep.issue.trans hissue, hkeep.down, hkeep.out, hkeep.txn⟩
  | cons w rest =>
    rw [List.tail_cons]
    unfold step at h
    rw [takeIssued_cons hissue] at h
    dsimp only at h
    unfold runWord at h
    split at h
    next i _ =>
      cases hblock : isBlock i with
      | true => exact .inl (exec_block_keeps hblock h).1
      | false =>
        obtain ⟨b, hexec⟩ := exec_command hblock { s with issue := rest }
        rw [hexec] at h
        cases h
        exact .inr ⟨b, rfl⟩
    next b _ =>
      cases h
      exact .inr ⟨b, rfl⟩
    next => cases h

end Sys2Proof.Machine

open Sys2Proof Sys2Proof.Machine

/-- Settles O26: all nine keep the Sampler's frame, and only SAMPLEBYTE completes a byte. -/
theorem samplerAndPrimitivesFrame : Obligations.SamplerAndPrimitivesFrame := by
  intro s t i h hi
  have hframe : SampledFrame s t ∧ ((∀ first, i ≠ .samplebyte first) → t.byte = s.byte) := by
    have hprim : PrimitiveFrame s t → SampledFrame s t ∧ ((∀ first, i ≠ .samplebyte first) → t.byte = s.byte) :=
      fun hp => ⟨hp.sampled, fun _ => hp.byte⟩
    obtain ⟨c, p, first, rfl | rfl | rfl | rfl | rfl | rfl | rfl | rfl | rfl⟩ := hi
    · exact hprim (execBitstate_frame h)
    · exact hprim (execNextedge_frame h)
    · exact hprim (execSeek_frame h)
    · exact hprim (execPeekedge_frame h)
    · exact hprim (execMoreedges_frame h)
    · exact hprim (execAdvsck_frame h)
    · exact hprim (execSync_frame h)
    · exact hprim (execSamplebit_frame h)
    · exact ⟨execSamplebyte_frame h, fun hne => absurd rfl (hne first)⟩
  obtain ⟨hsampled, hbyte⟩ := hframe
  unfold SampledFrame at hsampled
  refine ⟨?_, ?_, ?_, ?_, ?_, ?_, ?_, ?_, ?_, ?_, ?_, hbyte⟩ <;> rw [hsampled]

/-- Settles O27: COLLECT writes what its call of the Sampler writes, and ST; RUN is transitions in turn, none of which
writes what is named. -/
theorem collectAndRunFrame : Obligations.CollectAndRunFrame := by
  refine ⟨fun s t h => ?_, fun s t h => ?_⟩
  · obtain ⟨-, -, u, ok, hbyte, rfl⟩ := execCollect_eq_next.mp h
    exact afterSampler_frame hbyte
  · obtain ⟨-, -, hrun⟩ := exec_run_eq_next.mp h
    obtain ⟨-, hkeep, hresult⟩ := runTransitions_keeps hrun
    exact ⟨hkeep.capture, hkeep.down, hkeep.issue, hresult⟩

/-- Settles O28: the block keeps the capture, and a command byte acts on the stage after it. -/
theorem stepNeverWritesTheCapture : Obligations.StepNeverWritesTheCapture := by
  intro s t h
  rcases step_cases h with hkeep | ⟨b, rfl⟩
  · exact hkeep.capture
  · rfl

/-- Settles O30: the block appends, and a command byte does not touch OUT. -/
theorem outputIsAppendOnly : Obligations.OutputIsAppendOnly := by
  intro s t h
  rcases step_cases h with hkeep | ⟨b, rfl⟩
  · exact hkeep.out
  · exact List.prefix_rfl

/-- Settles O31: only PUSHBYTE adds an entry, and only below 33. -/
theorem stepKeepsBufferBound : Obligations.StepKeepsBufferBound := by
  intro s t hlen h
  rcases step_cases h with hkeep | ⟨b, rfl⟩
  · exact hkeep.txn hlen
  · exact hlen

end

-- ==== The block by itself: its table and its invariant ====
section
/-! PROOFS. What the rows of R118's table read and append (R117, R131), and the invariant of the block running by itself
(R13, R18, R19, R96, R111, R188): it holds at reset, every row keeps it, and before HALTED it gives a row. -/

namespace Sys2Proof.Machine

/-! ### Draws and messages -/

/-- CANCEL_REQ is read in IDLE and in no other state (R117). -/
theorem TransitionRow.cancelDraws {s t : State} (h : TransitionRow s t) :
    t.cancelDraws = if s.st = .idle then s.cancelDraws.tail else s.cancelDraws := by
  cases h with
  | cancelled hst | exhausted hst | opened _ _ hst => rw [if_pos hst]; rfl
  | collected u ok hst hbyte => rw [if_neg (by simp [hst]), afterSampler_frame hbyte]
  | pushed hst | closed hst => rw [if_neg (by simp [hst])]; rfl

/-- A message of one bit is a marker whose kind goes with its channel (R67, R132). -/
theorem exists_mark_of_mem_markersOfByte {b : SampledByte} {m : Message} (h : m ∈ markersOfByte b) :
    ∃ p kind channel, m = .mark p kind channel ∧ kind.onChannel channel = true := by
  obtain ⟨x, -, hx⟩ := List.mem_flatMap.mp h
  have hdir : ∀ d : EdgeDir, (kindOfDir d).onChannel .sck = true := fun d => by cases d <;> rfl
  have hbit : ∀ b : Bool, (kindOfBit b).onChannel .mosi = true ∧ (kindOfBit b).onChannel .miso = true := by decide
  simp only [markersOfBit, List.mem_cons, List.not_mem_nil, or_false] at hx
  obtain rfl | rfl | rfl := hx
  · exact ⟨_, _, _, rfl, hdir _⟩
  · exact ⟨_, _, _, rfl, (hbit _).1⟩
  · exact ⟨_, _, _, rfl, (hbit _).2⟩

theorem length_markersOfByte (b : SampledByte) : (markersOfByte b).length = 24 := by
  simp [markersOfByte_eq, markersOfBit]

/-- What a transition adds to OUT: markers whose kind goes with their channel, the Transaction of the buffer when one is
closed, or a progress report. -/
theorem TransitionRow.mem_out {s t : State} (h : TransitionRow s t) {m : Message} (hm : m ∈ t.out) :
    m ∈ s.out ∨ (∃ p kind channel, m = .mark p kind channel ∧ kind.onChannel channel = true) ∨
      (s.st = .txnDone ∧ s.txn.length ≤ 33 ∧ m = .txn (transactionOf s)) ∨ ∃ p, m = .progress p := by
  cases h with
  | cancelled | exhausted => exact .inl hm
  | opened a d =>
    rcases List.mem_append.mp hm with hm | hm
    · exact .inl hm
    · exact .inr (.inl ⟨a, .start, .csn, List.mem_singleton.mp hm, rfl⟩)
  | collected u ok hst hbyte =>
    rw [afterSampler_frame hbyte] at hm
    exact .inl hm
  | pushed =>
    rcases List.mem_append.mp hm with hm | hm
    · exact .inl hm
    · exact .inr (.inl (exists_mark_of_mem_markersOfByte hm))
  | closed hst hlen =>
    rcases List.mem_append.mp hm with hm | hm
    · exact .inl hm
    · simp only [List.mem_cons, List.not_mem_nil, or_false] at hm
      obtain rfl | rfl | rfl := hm
      · exact .inr (.inl ⟨_, _, _, rfl, rfl⟩)
      · exact .inr (.inr (.inl ⟨hst, hlen, rfl⟩))
      · exact .inr (.inr (.inr ⟨_, rfl⟩))

/-! ### The invariant row by row -/

/-- In IN_TXN the invariant gives the Sampler's preconditions. -/
theorem BlockInv.samplerReady {s : State} (h : BlockInv s) (hst : s.st = .inTxn) : SamplerReady s := by
  obtain ⟨hlow, hhigh⟩ := h.cursorInWindow (.inl hst)
  refine ⟨hst, (h.windowOpen (.inl hst)).2.2, hhigh, fun c => ?_, fun c => ?_⟩
  · rw [h.together, Cursors.get_all]
    exact hlow
  · rw [h.together, Cursors.get_all]
    exact Nat.le_refl _

/-- A Transaction closed under the invariant is good (R65, R122). -/
theorem BlockInv.transactionGood {s : State} (h : BlockInv s) (hst : s.st = .txnDone) :
    TransactionGood (transactionOf s) := by
  obtain ⟨-, hwin, -⟩ := h.windowOpen (.inr (.inr hst))
  refine ⟨h.bufferBound, ?_, hwin.1, h.retainedGood (.inr (.inr hst))⟩
  change (BitVec.ofNat 6 s.txn.length).toNat = s.txn.length
  have hbound := h.bufferBound
  rw [BitVec.toNat_ofNat, Nat.mod_eq_of_lt (by omega)]

/-- Whatever row is taken, the messages stay good. -/
theorem BlockInv.outGood_of_row {s t : State} (h : BlockInv s) (hrow : TransitionRow s t) :
    ∀ m ∈ t.out, MessageGood m := by
  intro m hm
  rcases hrow.mem_out hm with hm | ⟨p, kind, channel, rfl, hkind⟩ | ⟨hst, -, rfl⟩ | ⟨p, rfl⟩
  · exact h.outGood m hm
  · exact hkind
  · exact h.transactionGood hst
  · trivial

theorem BlockInv.causeNone {s : State} (h : BlockInv s) {x : CtrlState} (hst : s.st = x) (hx : x ≠ .halted) :
    s.haltCause = .none :=
  h.causeWhenHalted.mpr (by rw [hst]; exact hx)

theorem blockInv_haltWith {s : State} {cause : HaltCause} {draws : List Bool} (h : BlockInv s) (hcause : cause ≠ .none) :
    BlockInv (haltWith cause { s with cancelDraws := draws }) where
  together := h.together
  cursorInCapture := h.cursorInCapture
  causeWhenHalted := ⟨fun hnone => absurd hnone hcause, fun hst => absurd rfl hst⟩
  bufferBound := h.bufferBound
  outGood := h.outGood
  idleCursor := nofun
  windowOpen := nofun
  cursorInWindow := nofun
  landed := nofun
  firstFresh := nofun
  clockHigh := nofun
  retainedGood := nofun
  byteGood := nofun

theorem blockInv_txnOpened {s : State} {a d : Nat} (h : BlockInv s) (hst : s.st = .idle)
    (hwin : IsNextWindow s.capture s.cur.csn a d) (hout : ∀ m ∈ (txnOpened a d s).out, MessageGood m) :
    BlockInv (txnOpened a d s) where
  together := rfl
  cursorInCapture := Nat.le_sub_one_of_lt (Nat.lt_trans hwin.2.1 hwin.2.lt_length)
  causeWhenHalted := ⟨nofun, fun _ => h.causeNone hst nofun⟩
  bufferBound := Nat.zero_le 33
  outGood := hout
  idleCursor := nofun
  windowOpen _ := ⟨hwin.1.2.1, hwin.2, hwin.2.lt_length⟩
  cursorInWindow _ := ⟨Nat.le_refl a, hwin.2.1⟩
  landed := nofun
  firstFresh _ _ := ⟨rfl, fun _ => rfl⟩
  clockHigh := nofun
  retainedGood _ := nofun
  byteGood := nofun

/-- COLLECT that completes a byte: the byte lies in the window, and the cursors stand on its last point, where the clock is
high (R96). -/
theorem blockInv_byteTaken {s : State} (h : BlockInv s) (hst : s.st = .inTxn)
    (hlen : 8 ≤ (pointsFrom s.capture s.first s.cur.sck s.selHigh).length) :
    BlockInv ((byteTaken ((pointsFrom s.capture s.first s.cur.sck s.selHigh).take 8) s).setCtrl .byteDone) := by
  obtain ⟨hlow, -⟩ := h.cursorInWindow (.inl hst)
  obtain ⟨hgood, hafter, hspan, hbefore⟩ := wordOfPoints_inWindow (d := s.selHigh) hlow hlen
  have hin := (h.windowOpen (.inl hst)).2.2
  have hhigh := highAt_pointsFrom (k := 7) (by omega) hlen
  have hclock : ((pointsFrom s.capture s.first s.cur.sck s.selHigh).take 8).getD 7 0 =
      (pointsFrom s.capture s.first s.cur.sck s.selHigh).getD 7 0 := by simp
  rw [← hclock] at hhigh
  exact
    { together := rfl
      cursorInCapture := Nat.le_sub_one_of_lt (Nat.lt_trans hbefore hin)
      causeWhenHalted := ⟨nofun, fun _ => h.causeNone hst nofun⟩
      bufferBound := h.bufferBound
      outGood := h.outGood
      idleCursor := nofun
      windowOpen := fun _ => h.windowOpen (.inl hst)
      cursorInWindow := fun _ => ⟨Nat.le_of_lt (Nat.lt_trans hafter hspan), hbefore⟩
      landed := nofun
      firstFresh := fun hfirst _ => ⟨(h.firstFresh hfirst (.inl hst)).1, nofun⟩
      clockHigh := fun _ => hhigh
      retainedGood := fun _ => h.retainedGood (.inl hst)
      byteGood := fun _ => ⟨⟨hgood, hafter, hspan, hbefore⟩, rfl⟩ }

/-- COLLECT that ends the window: the cursors stand on the deassertion sample (R92, R166). -/
theorem blockInv_ended {s u : State} (h : BlockInv s) (hst : s.st = .inTxn)
    (hbyte : sampleByte s.first s = .next (u, false)) (hcur : u.cur = Cursors.all s.selHigh) :
    BlockInv (afterSampler false u) := by
  have hwin := h.windowOpen (.inl hst)
  have hend : (afterSampler false u).st = .txnDone := rfl
  rw [afterSampler_frame hbyte, hend, hcur]
  exact
    { together := rfl
      cursorInCapture := Nat.le_sub_one_of_lt hwin.2.2
      causeWhenHalted := ⟨nofun, fun _ => h.causeNone hst nofun⟩
      bufferBound := h.bufferBound
      outGood := h.outGood
      idleCursor := nofun
      windowOpen := fun _ => hwin
      cursorInWindow := nofun
      landed := fun _ => rfl
      firstFresh := fun _ => nofun
      clockHigh := nofun
      retainedGood := fun _ => h.retainedGood (.inl hst)
      byteGood := nofun }

theorem blockInv_bytePushed {s : State} (h : BlockInv s) (hst : s.st = .byteDone)
    (hout : ∀ m ∈ (bytePushed s).out, MessageGood m) : BlockInv (bytePushed s) where
  together := h.together
  cursorInCapture := h.cursorInCapture
  causeWhenHalted := ⟨nofun, fun _ => h.causeNone hst nofun⟩
  bufferBound := (bytePushed_keeps s).txn h.bufferBound
  outGood := hout
  idleCursor := nofun
  windowOpen _ := h.windowOpen (.inr (.inl hst))
  cursorInWindow _ := h.cursorInWindow (.inr hst)
  landed := nofun
  firstFresh := nofun
  clockHigh _ := h.clockHigh (.inl hst)
  retainedGood _ b hb := by
    have hmem : b ∈ s.txn ++ [s.byte] := by
      change b ∈ (if s.txn.length < 33 then s.txn ++ [s.byte] else s.txn) at hb
      split at hb
      · exact hb
      · exact List.mem_append_left _ hb
    rcases List.mem_append.mp hmem with hb | hb
    · exact h.retainedGood (.inr (.inl hst)) b hb
    · rw [List.mem_singleton.mp hb]
      exact (h.byteGood hst).1
  byteGood := nofun

theorem blockInv_txnClosed {s : State} (h : BlockInv s) (hst : s.st = .txnDone)
    (hout : ∀ m ∈ (txnClosed s).out, MessageGood m) : BlockInv (txnClosed s) := by
  obtain ⟨hfall, hwin, hin⟩ := h.windowOpen (.inr (.inr hst))
  have hhigh : highAt s.capture .csn s.selHigh = true := by
    rw [highAt_nextEdge hwin, (edgeAt_of_fallAt hfall).2]
    rfl
  exact
    { together := rfl
      cursorInCapture := Nat.le_sub_one_of_lt hin
      causeWhenHalted := ⟨nofun, fun _ => h.causeNone hst nofun⟩
      bufferBound := h.bufferBound
      outGood := hout
      idleCursor := fun _ => .inr hhigh
      windowOpen := nofun
      cursorInWindow := nofun
      landed := nofun
      firstFresh := fun _ => nofun
      clockHigh := nofun
      retainedGood := nofun
      byteGood := nofun }

/-- Every row of the table keeps the invariant. -/
theorem TransitionRow.keeps_blockInv {s t : State} (hrow : TransitionRow s t) (h : BlockInv s) : BlockInv t := by
  have hout := h.outGood_of_row hrow
  cases hrow with
  | cancelled => exact blockInv_haltWith h nofun
  | exhausted => exact blockInv_haltWith h nofun
  | opened a d hst _ hwin => exact blockInv_txnOpened h hst hwin hout
  | collected u ok hst hbyte =>
    rcases sampleByte_cases s.first (h.samplerReady hst) with ⟨hlen, hword⟩ | ⟨-, v, hend, hcur⟩
    · rw [hbyte] at hword
      cases hword
      exact blockInv_byteTaken h hst hlen
    · rw [hbyte] at hend
      cases hend
      exact blockInv_ended h hst hbyte hcur
  | pushed hst => exact blockInv_bytePushed h hst hout
  | closed hst => exact blockInv_txnClosed h hst hout

/-- At reset, whatever is loaded, the block is in IDLE with its cursors on sample 0 and nothing emitted. -/
theorem blockInv_startOf (w : List Instant) (draws : List Bool) : BlockInv (startOf w draws) where
  together := rfl
  cursorInCapture := Nat.zero_le _
  causeWhenHalted := ⟨nofun, fun _ => rfl⟩
  bufferBound := Nat.zero_le 33
  outGood := nofun
  idleCursor _ := .inl rfl
  windowOpen := nofun
  cursorInWindow := nofun
  landed := nofun
  firstFresh := nofun
  clockHigh := nofun
  retainedGood := nofun
  byteGood := nofun

/-- With the invariant the block has a transition in every state but HALTED. -/
theorem BlockInv.exists_transition {s : State} (h : BlockInv s) (hrun : Running s) : ∃ t, transition s = .next t := by
  cases hst : s.st with
  | idle =>
    cases hdraw : s.cancelDraws.headD false with
    | true => exact ⟨_, transition_idle_cancelled hrun hst hdraw⟩
    | false =>
      by_cases hwin : ∃ a d, IsNextWindow s.capture s.cur.csn a d
      · obtain ⟨a, d, hwin⟩ := hwin
        refine ⟨_, transition_idle_window hst hdraw hwin fun c => ?_⟩
        have hcsn : s.cur.csn = s.cur.sck := by rw [h.together]; rfl
        rw [h.together, Cursors.get_all, ← hcsn]
        exact Nat.le_of_lt hwin.1.1
      · exact ⟨_, transition_idle_exhausted hrun hst hdraw hwin⟩
  | inTxn =>
    have hready := h.samplerReady hst
    obtain ⟨u, ok, hbyte⟩ := exists_sampleByte s.first hready
    exact ⟨_, by rw [transition_inTxn hready, hbyte, andThen_next]⟩
  | byteDone => exact ⟨_, transition_byteDone hrun hst⟩
  | txnDone =>
    refine ⟨_, transition_txnDone hst (fun c => ?_) (h.windowOpen (.inr (.inr hst))).2.2 h.bufferBound⟩
    rw [h.together, Cursors.get_all, h.landed hst]
  | halted => exact absurd hst hrun.2

end Sys2Proof.Machine

open Sys2Proof Sys2Proof.Machine

/-- Settles O35: a step of the block by itself is a row of the table, and each row keeps the invariant. -/
theorem stepKeepsBlockInv : Obligations.StepKeepsBlockInv := by
  intro s t hinv hissue h
  exact (step_row hissue h).2.keeps_blockInv hinv

/-- Settles O34: the reset state is the start of a run with nothing loaded. -/
theorem blockInvHoldsAtReset : Obligations.BlockInvHoldsAtReset :=
  ⟨blockInv_startOf [] [], blockInv_startOf⟩

/-- Settles O36: the invariant gives each control state but HALTED its row. -/
theorem blockNeverStopsBeforeHalted : Obligations.BlockNeverStopsBeforeHalted := by
  intro s hinv hrun hissue
  rw [step_of_no_issue hissue]
  exact hinv.exists_transition hrun

/-- Settles O19: the draw that is read is the head of the list, in IDLE alone, and no operation but RUN is made of
transitions. -/
theorem cancellationIsReadAtTheTopOnly : Obligations.CancellationIsReadAtTheTopOnly := by
  refine ⟨fun s rest hrun hissue hst hdraws => ?_, fun s t hissue h => (step_row hissue h).2.cancelDraws,
    fun s t i hi h => ?_⟩
  · rw [step_of_no_issue hissue, transition_idle_cancelled hrun hst (by rw [hdraws]; rfl), hdraws]
    rfl
  · cases hblock : isBlock i with
    | true => exact (exec_block_keeps hblock h).2 hi
    | false =>
      obtain ⟨b, hexec⟩ := exec_command hblock s
      rw [hexec] at h
      cases h
      rfl

/-- Settles O20: the rows as the table lists them; COLLECT's row is the Sampler's call that SAMPLEBYTE is. -/
theorem controlFollowsTransitionTable : Obligations.ControlFollowsTransitionTable := by
  refine ⟨rfl, fun s hissue hst => ?_, fun s t hissue h => ?_⟩
  · rw [step_of_no_issue hissue]
    exact transition_halted hst
  · obtain ⟨hrun, hrow⟩ := step_row hissue h
    cases hrow with
    | cancelled hst hdraw => exact .inl ⟨hst, hdraw, rfl, rfl, rfl⟩
    | exhausted hst hdraw hwin => exact .inr (.inl ⟨hst, hdraw, hwin, rfl, rfl, rfl⟩)
    | opened a d hst hdraw hwin => exact .inr (.inr (.inl ⟨hst, hdraw, rfl, a, d, hwin, rfl, rfl, rfl⟩))
    | collected u ok hst hbyte =>
      have hexec : exec (.samplebyte s.first) s = .next (u.setResult (if ok then .word else .endOfTxn)) := by
        refine (requireOp_some hrun hst _).trans ?_
        rw [hbyte, andThen_next]
      refine .inr (.inr (.inr (.inl ⟨hst, by rw [afterSampler_frame hbyte], _, hexec, ?_⟩)))
      cases ok
      · exact .inr ⟨rfl, rfl⟩
      · exact .inl ⟨rfl, rfl⟩
    | pushed hst =>
      exact .inr (.inr (.inr (.inr (.inl ⟨hst, rfl, rfl, length_markersOfByte s.byte⟩))))
    | closed hst => exact .inr (.inr (.inr (.inr (.inr ⟨hst, rfl, rfl⟩))))

/-- Settles O21: an issued EMITMARK appends its marker; a row of the table adds markers of its own kinds only. -/
theorem emitmarkAppendsOneMarker : Obligations.EmitmarkAppendsOneMarker := by
  refine ⟨fun s p kind channel hrun => requireOp_none_eq_next.mpr ⟨hrun, rfl⟩, fun s t p kind channel hissue h hm => ?_⟩
  rcases (step_row hissue h).2.mem_out hm with hm | ⟨_, _, _, heq, hkind⟩ | ⟨-, -, heq⟩ | ⟨_, heq⟩
  · exact .inl hm
  · cases heq
    exact .inr hkind
  · cases heq
  · cases heq

end

-- ==== Segmenter: runs ====
section
/-! PROOFS. RUN from IDLE for any draws (R110, R117): it halts, it is the block's steps in turn, and its OUT is that of the
windows before the first 1 that CANCEL_REQ reads. What is in those messages: the FALLING marker (R98), and what of the capture
they depend on. -/

namespace Sys2Proof.Machine

/-! ### The end of a run -/

/-- Why a run ends that has these windows ahead of it: CANCEL_REQ is read once before each, and once when none is left
(R117). -/
def causeOfRun (draws : List Bool) : List (Nat × Nat) → HaltCause
  | [] => if draws.headD false then .cancelled else .exhausted
  | _ :: rest => if draws.headD false then .cancelled else causeOfRun draws.tail rest

theorem causeOfRun_of_cancel {draws : List Bool} (h : draws.headD false = true) (xs : List (Nat × Nat)) :
    causeOfRun draws xs = .cancelled := by
  cases xs <;> exact if_pos h

theorem causeOfRun_nil {draws : List Bool} (h : draws.headD false = false) : causeOfRun draws [] = .exhausted :=
  if_neg (Bool.eq_false_iff.mp h)

theorem causeOfRun_cons {draws : List Bool} (h : draws.headD false = false) (x : Nat × Nat) (rest : List (Nat × Nat)) :
    causeOfRun draws (x :: rest) = causeOfRun draws.tail rest :=
  if_neg (Bool.eq_false_iff.mp h)

theorem causeOfRun_cases (draws : List Bool) (xs : List (Nat × Nat)) :
    causeOfRun draws xs = .cancelled ∨ causeOfRun draws xs = .exhausted := by
  induction xs generalizing draws with
  | nil =>
    cases h : draws.headD false with
    | true => exact .inl (causeOfRun_of_cancel h [])
    | false => exact .inr (causeOfRun_nil h)
  | cons x rest ih =>
    cases h : draws.headD false with
    | true => exact .inl (causeOfRun_of_cancel h _)
    | false =>
      rw [causeOfRun_cons h]
      exact ih draws.tail

/-- From IDLE with no cursor ahead of the chip-select cursor, the block goes through the windows it takes of those ahead and
halts, within four transitions for each sample left and one more. -/
theorem reaches_end_of_run {s : State} (hst : s.st = .idle) (hcur : ∀ c, s.cur.get c ≤ s.cur.csn)
    (hp : s.cur.csn < s.size) :
    ∃ n t, n ≤ 4 * (s.size - s.cur.csn) + 1 ∧ Reaches n s t ∧ t.st = .halted ∧
      t.haltCause = causeOfRun s.cancelDraws (windowsAfter s.capture s.cur.csn) ∧
      t.out = s.out ++ (windowsTaken s.cancelDraws (windowsAfter s.capture s.cur.csn)).flatMap
        fun x => messagesOfWindow s.capture x.1 x.2 := by
  have hrun : Running s := running_of_lt_size hp (by simp [hst])
  induction hl : windowsAfter s.capture s.cur.csn generalizing s with
  | nil =>
    have hwin : ¬∃ a d, IsNextWindow s.capture s.cur.csn a d := by
      rintro ⟨a, d, hwin⟩
      rw [windowsAfter_eq_cons hwin] at hl
      cases hl
    have hout : s.out = s.out ++ (windowsTaken s.cancelDraws []).flatMap fun x => messagesOfWindow s.capture x.1 x.2 :=
      (List.append_nil _).symm
    cases hdraw : s.cancelDraws.headD false with
    | true =>
      exact ⟨1, _, by omega, reaches_of_transition hrun.2 (transition_idle_cancelled hrun hst hdraw), rfl,
        (causeOfRun_of_cancel hdraw []).symm, hout⟩
    | false =>
      exact ⟨1, _, by omega, reaches_of_transition hrun.2 (transition_idle_exhausted hrun hst hdraw hwin), rfl,
        (causeOfRun_nil hdraw).symm, hout⟩
  | cons x rest ih =>
    cases hdraw : s.cancelDraws.headD false with
    | true =>
      exact ⟨1, _, by omega, reaches_of_transition hrun.2 (transition_idle_cancelled hrun hst hdraw), rfl,
        (causeOfRun_of_cancel hdraw _).symm, by rw [windowsTaken_of_cancel hdraw, List.flatMap_nil, List.append_nil]; rfl⟩
    | false =>
      rcases windowsAfter_cases s.capture s.cur.csn with ⟨hnil, -⟩ | ⟨a, d, hwin, hcons⟩
      · rw [hnil] at hl
        cases hl
      · rw [hcons, List.cons.injEq] at hl
        obtain ⟨rfl, hrest⟩ := hl
        have hpa : s.cur.csn < a := hwin.1.1
        have had : a < d := hwin.2.1
        have hd : d < s.size := hwin.2.lt_length
        obtain ⟨u, hreach, hust, hucur, hucap, hudraws, huout⟩ :=
          reaches_next_window hst hdraw hwin fun c => Nat.le_trans (hcur c) (Nat.le_of_lt hpa)
        have hucsn : u.cur.csn = d := by rw [hucur]; rfl
        have husize : u.size = s.size := congrArg List.length hucap
        obtain ⟨n, t, hn, hreach2, htst, htcause, htout⟩ :=
          ih hust (fun c => by rw [hucsn, hucur, Cursors.get_all]) (by omega)
            (running_of_lt_size (p := d) (by omega) (by simp [hust])) (by rw [hucap, hucsn, hrest])
        have hcount := window_transitions_le s.capture had
        refine ⟨_, t, by omega, hreach.trans hreach2, htst, ?_, ?_⟩
        · rw [htcause, hudraws, causeOfRun_cons hdraw]
        · rw [htout, huout, hucap, hudraws, windowsTaken_cons hdraw, List.flatMap_cons, List.append_assoc]

/-- RUN from IDLE with no cursor ahead of the chip-select cursor: it goes on to the end of the run (R110). -/
theorem exec_run_of_idle {s : State} (hst : s.st = .idle) (hcur : ∀ c, s.cur.get c ≤ s.cur.csn)
    (hp : s.cur.csn < s.size) :
    ∃ t, exec .run s = .next t ∧ t.st = .halted ∧
      t.haltCause = causeOfRun s.cancelDraws (windowsAfter s.capture s.cur.csn) ∧
      t.out = s.out ++ (windowsTaken s.cancelDraws (windowsAfter s.capture s.cur.csn)).flatMap
        fun x => messagesOfWindow s.capture x.1 x.2 := by
  obtain ⟨n, t, hn, hreach, htst, hcause, hout⟩ := reaches_end_of_run hst hcur hp
  obtain ⟨left, hleft⟩ : ∃ left, runBound s = n + left := Nat.exists_eq_add_of_le (by unfold runBound; omega)
  have hrun : Running s := running_of_lt_size hp (by simp [hst])
  refine ⟨t, exec_run_eq_next.mpr ⟨hrun, hst, ?_⟩, htst, hcause, hout⟩
  rw [hleft, hreach, runTransitions_halted htst]

/-! ### RUN as steps -/

/-- A run of a machine that begins with a step goes on from the state it leads to. -/
theorem core_run_succ {M : Host.Core} {s u : M.State} (h : M.step s = .next u) (k : Nat) :
    M.run (k + 1) s = M.run k u := by
  rw [Host.Core.run, h]

/-- Transitions in turn, from a state with no word issued, are steps of the machine. -/
theorem run_of_runTransitions {left : Nat} {s t : State} (hissue : s.issue = [])
    (h : runTransitions left s = .next t) : ∃ k, Host.Core.run Sys2Proof.core k s = .next t := by
  induction left generalizing s with
  | zero =>
    unfold runTransitions at h
    split at h
    · exact ⟨0, h⟩
    · cases h
  | succ left ih =>
    unfold runTransitions at h
    split at h
    · exact ⟨0, h⟩
    · obtain ⟨u, hu, h⟩ := andThen_eq_next.mp h
      have hkeep := (transition_row hu).2.keeps.1
      obtain ⟨k, hk⟩ := ih (hkeep.issue.trans hissue) h
      exact ⟨k + 1, (core_run_succ (M := Sys2Proof.core) ((step_of_no_issue hissue).trans hu) k).trans hk⟩

/-! ### Which windows a run takes -/

/-- With a 1 among the draws the run takes the windows before it, and is cancelled there if it gets that far. -/
theorem run_of_some_draw {draws : List Bool} (h : draws.findIdx (fun b => b) < draws.length)
    (xs : List (Nat × Nat)) :
    windowsTaken draws xs = xs.take (draws.findIdx fun b => b) ∧
      causeOfRun draws xs = if draws.findIdx (fun b => b) ≤ xs.length then .cancelled else .exhausted := by
  induction draws generalizing xs with
  | nil => exact absurd h (Nat.lt_irrefl 0)
  | cons b rest ih =>
    rw [List.findIdx_cons] at h ⊢
    cases b with
    | true => exact ⟨windowsTaken_of_cancel rfl xs, (causeOfRun_of_cancel rfl xs).trans (if_pos (Nat.zero_le _)).symm⟩
    | false =>
      cases xs with
      | nil => exact ⟨rfl, (causeOfRun_nil rfl).trans (if_neg (Nat.not_succ_le_zero _)).symm⟩
      | cons x xs =>
        obtain ⟨htaken, hcause⟩ := ih (Nat.lt_of_succ_lt_succ h) xs
        rw [windowsTaken_cons rfl, causeOfRun_cons rfl, List.tail_cons, htaken, hcause]
        exact ⟨rfl, if_congr Nat.succ_le_succ_iff.symm rfl rfl⟩

/-- With no 1 among the draws the run takes every window. -/
theorem run_of_no_draw {draws : List Bool} (h : NeverCancels draws) (xs : List (Nat × Nat)) :
    windowsTaken draws xs = xs ∧ causeOfRun draws xs = .exhausted := by
  induction xs generalizing draws with
  | nil => exact ⟨rfl, causeOfRun_nil h.head⟩
  | cons x xs ih =>
    obtain ⟨htaken, hcause⟩ := ih h.tail
    rw [windowsTaken_cons h.head, causeOfRun_cons h.head, htaken]
    exact ⟨rfl, hcause⟩

/-! ### The Transactions of a run -/

theorem transactionsOf_window (w : List Instant) (a d : Nat) :
    transactionsOf (messagesOfWindow w a d) = [transactionOfWindow w a d] := by
  have hbytes : transactionsOf ((wordsOfWindow w a d).flatMap markersOfByte) = [] := by
    simp [transactionsOf, List.filterMap_flatMap, markersOfByte, markersOfBit]
  unfold transactionsOf at hbytes ⊢
  simp [messagesOfWindow, hbytes]

/-- The Transactions handed over over some windows are those of the windows (R136). -/
theorem transactionsOf_windows (w : List Instant) (xs : List (Nat × Nat)) :
    transactionsOf (xs.flatMap fun x => messagesOfWindow w x.1 x.2) = xs.map fun x => transactionOfWindow w x.1 x.2 := by
  have hwindow := transactionsOf_window w
  unfold transactionsOf at hwindow ⊢
  simp only [List.filterMap_flatMap, hwindow, List.map_eq_flatMap]

/-! ### The FALLING marker (R98) -/

/-- The clock is low at a sampling point exactly when it is the first of a window that begins with the clock high. -/
theorem highAt_samplingPoints {w : List Instant} {a d j : Nat} (h : j < (samplingPoints w a d).length) :
    highAt w .sck ((samplingPoints w a d).getD j 0) = false ↔ j = 0 ∧ highAt w .sck a = true := by
  cases j with
  | succ j =>
    have hhigh : highAt w .sck ((samplingPoints w a d).getD (j + 1) 0) = true :=
      highAt_pointsFrom (first := true) (Nat.le_add_left 1 j) h
    rw [hhigh]
    simp
  | zero =>
    cases hlevel : highAt w .sck a with
    | false =>
      rw [samplingPoints_of_low d hlevel] at h ⊢
      rw [List.getD_eq_getElem _ _ h]
      have hrising := (List.mem_filter.mp (List.getElem_mem h)).2
      simpa using hrising
    | true =>
      rcases clockEdges_cases w a d with ⟨hnil, -⟩ | ⟨e, he, hd, -⟩
      · simp [samplingPoints_eq_nil hnil] at h
      · rw [samplingPoints_of_high he hd hlevel, List.getD_cons_zero, highAt_nextEdge he, hlevel]
        simp

/-- The `k`-th word of a list of points has its bit `i` at the point `8k + i`. -/
theorem wordsOfPoints_mark {w : List Instant} {pts : List Nat} {k i : Nat} {b : SampledByte} (hi : i < 8)
    (h : (wordsOfPoints w pts)[k]? = some b) :
    8 * k + i < pts.length ∧ b.marks[i] = markerAt w (pts.getD (8 * k + i) 0) := by
  obtain ⟨hk, rfl⟩ := List.getElem?_eq_some_iff.mp h
  rw [length_wordsOfPoints] at hk
  have hlt : 8 * k + i < pts.length := by omega
  have hpoint : ((pts.drop (8 * k)).take 8).getD i 0 = pts.getD (8 * k + i) 0 := by
    rw [List.getD_eq_getElem _ _ hlt, List.getD_eq_getElem _ _ (by rw [List.length_take, List.length_drop]; omega),
      List.getElem_take, List.getElem_drop]
  refine ⟨hlt, ?_⟩
  simp only [wordsOfPoints, List.getElem_map, List.getElem_range]
  rw [wordOfPoints_mark w _ hi, hpoint]

/-! ### What the messages of a window depend on -/

theorem edgeAt_congr {v w : List Instant} {c : Channel} {p : Nat} (hlen : v.length = w.length)
    (h1 : highAt v c (p - 1) = highAt w c (p - 1)) (h2 : highAt v c p = highAt w c p) :
    edgeAt v c p = edgeAt w c p := by
  rw [edgeAt, edgeAt, hlen, h1, h2]

/-- The edges of a channel are those of its line (R42). -/
theorem nextEdge_congr {v w : List Instant} {c : Channel} (hlen : v.length = w.length)
    (hline : ∀ p, highAt v c p = highAt w c p) (p : Nat) : nextEdge v c p = nextEdge w c p := by
  have hedge : ∀ q, edgeAt v c q = edgeAt w c q := fun q => edgeAt_congr hlen (hline _) (hline _)
  refine Option.ext fun e => ?_
  rw [nextEdge_eq_some_iff, nextEdge_eq_some_iff]
  simp only [IsNextEdge, hedge]

/-- The windows are those of the chip-select line (R119). -/
theorem windowsOf_congr {v w : List Instant} (hlen : v.length = w.length)
    (hcsn : ∀ p, highAt v .csn p = highAt w .csn p) : windowsOf v = windowsOf w := by
  have hfall : ∀ p, fallAt v .csn p = fallAt w .csn p := fun p => by
    rw [fallAt, fallAt, edgeAt_congr hlen (hcsn _) (hcsn _), hcsn]
  unfold windowsOf
  simp only [hlen, hfall, nextEdge_congr hlen hcsn]

/-- Two captures that a window's messages cannot tell apart: the same clock from the assertion sample to before the
deassertion sample, and the same data lines strictly inside. -/
structure SameInWindow (v w : List Instant) (a d : Nat) : Prop where
  length : v.length = w.length
  clock : ∀ p, a ≤ p → p < d → highAt v .sck p = highAt w .sck p
  mosi : ∀ p, a < p → p < d → highAt v .mosi p = highAt w .mosi p
  miso : ∀ p, a < p → p < d → highAt v .miso p = highAt w .miso p

theorem clockEdges_congr {v w : List Instant} {a d : Nat} (h : SameInWindow v w a d) :
    clockEdges v a d = clockEdges w a d := by
  refine List.filter_congr fun e he => ?_
  have hd := List.mem_range.mp he
  by_cases ha : a < e
  · rw [edgeAt_congr h.length (h.clock (e - 1) (by omega) (by omega)) (h.clock e (by omega) hd)]
  · simp [ha]

theorem samplingPoints_congr {v w : List Instant} {a d : Nat} (h : SameInWindow v w a d) (had : a < d) :
    samplingPoints v a d = samplingPoints w a d := by
  have hclock : ∀ e ∈ clockEdges w a d, highAt v .sck e = highAt w .sck e := fun e he => by
    obtain ⟨hd, ha, -⟩ := mem_clockEdges.mp he
    exact h.clock e (Nat.le_of_lt ha) hd
  have hfind : (clockEdges w a d).find? (fun e => !highAt v .sck e) =
      (clockEdges w a d).find? fun e => !highAt w .sck e := List.find?_congr fun e he => by rw [hclock e he]
  unfold samplingPoints
  simp only [clockEdges_congr h, hfind, h.clock a (Nat.le_refl a) had]
  exact List.filter_congr fun e he => by rw [hclock e he]

theorem markerAt_congr {v w : List Instant} {a d p : Nat} (h : SameInWindow v w a d) (ha : a < p) (hd : p < d) :
    markerAt v p = markerAt w p := by
  rw [markerAt, markerAt, h.clock p (Nat.le_of_lt ha) hd, h.mosi p ha hd, h.miso p ha hd]

theorem wordOfPoints_congr {v w : List Instant} {a d : Nat} {pts : List Nat} (h : SameInWindow v w a d)
    (hlen : pts.length = 8) (hin : ∀ p ∈ pts, a < p ∧ p < d) : wordOfPoints v pts = wordOfPoints w pts := by
  have hmosi : pts.foldl (fun acc p => shiftIn acc (highAt v .mosi p)) 0 =
      pts.foldl (fun acc p => shiftIn acc (highAt w .mosi p)) 0 :=
    List.foldl_ext _ _ _ fun acc p hp => by rw [h.mosi p (hin p hp).1 (hin p hp).2]
  have hmiso : pts.foldl (fun acc p => shiftIn acc (highAt v .miso p)) 0 =
      pts.foldl (fun acc p => shiftIn acc (highAt w .miso p)) 0 :=
    List.foldl_ext _ _ _ fun acc p hp => by rw [h.miso p (hin p hp).1 (hin p hp).2]
  have hmarks : (fun i : Fin 8 => markerAt v (pts.getD i.val 0)) = fun i : Fin 8 => markerAt w (pts.getD i.val 0) := by
    funext i
    have hi : i.val < pts.length := by omega
    rw [List.getD_eq_getElem _ _ hi]
    exact markerAt_congr h (hin _ (List.getElem_mem hi)).1 (hin _ (List.getElem_mem hi)).2
  unfold wordOfPoints
  rw [hmosi, hmiso, hmarks]

theorem wordsOfWindow_congr {v w : List Instant} {a d : Nat} (h : SameInWindow v w a d) (had : a < d) :
    wordsOfWindow v a d = wordsOfWindow w a d := by
  rw [wordsOfWindow_eq, wordsOfWindow_eq, samplingPoints_congr h had]
  refine List.map_congr_left fun k hk => wordOfPoints_congr h ?_ fun p hp => ?_
  · have hk8 := List.mem_range.mp hk
    rw [List.length_take, List.length_drop]
    omega
  · exact lt_of_mem_pointsFrom (first := true) (List.mem_of_mem_drop (List.mem_of_mem_take hp))

theorem messagesOfWindow_congr {v w : List Instant} {a d : Nat} (h : SameInWindow v w a d) (had : a < d) :
    messagesOfWindow v a d = messagesOfWindow w a d := by
  rw [messagesOfWindow, messagesOfWindow, transactionOfWindow, transactionOfWindow, wordsOfWindow_congr h had]

end Sys2Proof.Machine

open Sys2Proof Sys2Proof.Machine

/-- Settles O18: each window ends after it starts and the next search begins there, so the windows run out. -/
theorem runAlwaysHalts : Obligations.RunAlwaysHalts := by
  intro s hst hcur hp
  obtain ⟨t, hexec, htst, hcause, -⟩ := exec_run_of_idle hst hcur hp
  refine ⟨t, hexec, htst, ?_⟩
  rw [hcause]
  exact causeOfRun_cases _ _

/-- Settles O37: RUN's transitions end in HALTED, and each is the step of a machine with no word issued. -/
theorem runIsRepeatedSteps : Obligations.RunIsRepeatedSteps := by
  intro s t hissue h
  obtain ⟨-, -, hrun⟩ := exec_run_eq_next.mp h
  exact ⟨(runTransitions_keeps hrun).1, run_of_runTransitions hissue hrun⟩

/-- Settles O39: CANCEL_REQ is read once before each window and once after the last, so the first 1 cuts the windows at its
place in the draws. -/
theorem cancelledRunEmitsAPrefix : Obligations.CancelledRunEmitsAPrefix := by
  intro w draws hw
  obtain ⟨t, hexec, hst, hcause, hout⟩ := exec_run_of_idle (s := startOf w draws) rfl
    (fun c => by cases c <;> exact Nat.le_refl 0) (List.length_pos_of_ne_nil hw)
  replace hcause : t.haltCause = causeOfRun draws (windowsAfter w 0) := hcause
  replace hout : t.out = (windowsTaken draws (windowsAfter w 0)).flatMap fun x => messagesOfWindow w x.1 x.2 := hout
  rw [windowsAfter_zero] at hcause hout
  refine ⟨t, hexec, hst, ?_⟩
  rw [hcause, hout]
  rcases Nat.lt_or_ge (draws.findIdx fun b => b) draws.length with hk | hk
  · obtain ⟨htaken, hrun⟩ := run_of_some_draw hk (windowsOf w)
    rw [htaken, hrun]
    by_cases hle : draws.findIdx (fun b => b) ≤ (windowsOf w).length
    · simp [hk, hle]
    · rw [List.take_of_length_le (Nat.le_of_not_le hle)]
      simp [hle]
  · have hnever : NeverCancels draws := List.findIdx_eq_length.mp (Nat.le_antisymm List.findIdx_le_length hk)
    obtain ⟨htaken, hrun⟩ := run_of_no_draw hnever (windowsOf w)
    rw [htaken, hrun]
    simp [Nat.not_lt.mpr hk]

/-- Settles O42: bit `i` of byte `k` is taken at the sampling point `8k + i` of its window, and of the sampling points only
the first can be a falling edge. -/
theorem fallingMarkerOnlyFirstAfterHighClock : Obligations.FallingMarkerOnlyFirstAfterHighClock := by
  intro w draws hw
  obtain ⟨t, hexec, hout⟩ := exec_run_startOf hw draws
  refine ⟨t, hexec, fun x hx k b hb i => ?_⟩
  rw [hout, transactionsOf_windows] at hx
  obtain ⟨⟨a, d⟩, -, rfl⟩ := List.mem_map.mp hx
  replace hb : ((wordsOfPoints w (samplingPoints w a d)).take 33)[k]? = some b := hb
  rw [List.getElem?_take] at hb
  split at hb
  case isFalse => cases hb
  obtain ⟨hlt, hmark⟩ := wordsOfPoints_mark i.isLt hb
  change (b.marks[i.val]).dir = .falling ↔ k = 0 ∧ i.val = 0 ∧ highAt w .sck a = true
  have hdir : (b.marks[i.val]).dir = .falling ↔
      highAt w .sck ((samplingPoints w a d).getD (8 * k + i.val) 0) = false := by
    rw [hmark]
    unfold markerAt
    cases highAt w .sck ((samplingPoints w a d).getD (8 * k + i.val) 0) <;> simp
  rw [hdir, highAt_samplingPoints hlt, ← and_assoc]
  exact and_congr_left' (by omega)

/-- Settles O43: both runs take the same windows, whose messages depend on the lines inside them alone. -/
theorem outputIgnoresSamplesOutsideWindows : Obligations.OutputIgnoresSamplesOutsideWindows := by
  intro w v draws hw hlen hcsn hclock hdata
  have hv : v ≠ [] := by
    rintro rfl
    exact hw (List.length_eq_zero_iff.mp hlen.symm)
  obtain ⟨t, ht, htout⟩ := exec_run_startOf hw draws
  obtain ⟨u, hu, huout⟩ := exec_run_startOf hv draws
  refine ⟨t, u, ht, hu, ?_⟩
  rw [htout, huout, windowsOf_congr hlen hcsn]
  refine List.flatMap_congr fun x hx => (messagesOfWindow_congr ?_ ?_).symm
  · have hmem := (windowsTaken_prefix draws _).subset hx
    exact ⟨hlen, hclock x hmem, fun p h1 h2 => (hdata x hmem p h1 h2).1, fun p h1 h2 => (hdata x hmem p h1 h2).2⟩
  · exact lt_of_mem_windowsOf ((windowsTaken_prefix draws _).subset hx)

end

-- ==== The per-sample circuit ====
section
/-! PROOFS. The circuit of R120 against the closed form, sample by sample: between two samples it holds the words and the
marked bits of the sampling points seen so far in the window, or, outside a window, nothing that it will read. -/

namespace Sys2Proof.Machine

/-! ### A point more -/

/-- The points of a list that are not yet in a complete word. -/
def partialWord (pts : List Nat) : List Nat := pts.drop (8 * (pts.length / 8))

theorem length_partialWord (pts : List Nat) : (partialWord pts).length = pts.length % 8 := by
  rw [partialWord, List.length_drop]
  omega

/-- A complete word does not change when a point is added. -/
theorem word_append {pts : List Nat} {k : Nat} (hk : k < pts.length / 8) (q : Nat) :
    ((pts ++ [q]).drop (8 * k)).take 8 = (pts.drop (8 * k)).take 8 := by
  rw [List.drop_append_of_le_length (by omega), List.take_append_of_le_length (by rw [List.length_drop]; omega)]

theorem drop_words_append (pts : List Nat) (q : Nat) :
    (pts ++ [q]).drop (8 * (pts.length / 8)) = partialWord pts ++ [q] :=
  List.drop_append_of_le_length (by omega)

/-- A point that is not the eighth of its word completes none. -/
theorem words_append_of_lt {pts : List Nat} (h : pts.length % 8 + 1 < 8) (w : List Instant) (q : Nat) :
    wordsOfPoints w (pts ++ [q]) = wordsOfPoints w pts ∧ partialWord (pts ++ [q]) = partialWord pts ++ [q] := by
  have hcount : (pts ++ [q]).length / 8 = pts.length / 8 := by
    rw [List.length_append, List.length_singleton]
    omega
  constructor
  · unfold wordsOfPoints
    rw [hcount]
    exact List.map_congr_left fun k hk => by rw [word_append (List.mem_range.mp hk)]
  · rw [partialWord, hcount, drop_words_append]

/-- The eighth point completes its word. -/
theorem words_append_of_eq {pts : List Nat} (h : pts.length % 8 + 1 = 8) (w : List Instant) (q : Nat) :
    wordsOfPoints w (pts ++ [q]) = wordsOfPoints w pts ++ [wordOfPoints w (partialWord pts ++ [q])] ∧
      partialWord (pts ++ [q]) = [] := by
  have hcount : (pts ++ [q]).length / 8 = pts.length / 8 + 1 := by
    rw [List.length_append, List.length_singleton]
    omega
  have hpart := length_partialWord pts
  constructor
  · unfold wordsOfPoints
    rw [hcount, List.range_succ, List.map_append, List.map_singleton, drop_words_append,
      List.take_of_length_le (by rw [List.length_append, List.length_singleton]; omega)]
    exact congrArg (· ++ _) (List.map_congr_left fun k hk => by rw [word_append (List.mem_range.mp hk)])
  · rw [partialWord, hcount]
    exact List.drop_eq_nil_of_le (by rw [List.length_append, List.length_singleton]; omega)

theorem take_succ_set {α : Type} {l : List α} {i : Nat} (h : i < l.length) (x : α) :
    (l.set i x).take (i + 1) = l.take i ++ [x] := by
  rw [List.take_add_one, List.take_set_of_le (Nat.le_refl i), List.getElem?_set_self h]
  rfl

/-! ### What the circuit holds of the points it has taken -/

/-- The circuit has taken its bits at these points: it keeps the first 33 of their complete words, and the accumulators and
markers are those of the word that is not complete. -/
structure HoldsPoints (w : List Instant) (pts : List Nat) (k : Circuit) : Prop where
  txn : k.txn = (wordsOfPoints w pts).take 33
  cnt : k.cnt = pts.length % 8
  mosiAcc : k.mosiAcc = (partialWord pts).foldl (fun acc p => shiftIn acc (highAt w .mosi p)) 0
  misoAcc : k.misoAcc = (partialWord pts).foldl (fun acc p => shiftIn acc (highAt w .miso p)) 0
  marks : k.marks.toList.take k.cnt = (partialWord pts).map (markerAt w)

/-- The markers with that of sample `q` written at the count. -/
def Circuit.marksWith (k : Circuit) (w : List Instant) (q : Nat) : Vector BitMarker 8 :=
  k.marks.setIfInBounds k.cnt (markerAt w q)

/-- The word that the bit at sample `q` completes. -/
def Circuit.wordWith (k : Circuit) (w : List Instant) (q : Nat) : SampledByte :=
  ⟨shiftIn k.mosiAcc (highAt w .mosi q), shiftIn k.misoAcc (highAt w .miso q), (k.marksWith w q)[0].sample,
    (k.marksWith w q)[7].sample, k.marksWith w q⟩

/-- The bit at sample `q` of the capture, which is not the eighth of its word. -/
theorem takeBit_of_lt {w : List Instant} {q : Nat} {k : Circuit} {now : Instant}
    (hnow : ∀ c, highAt w c q = now.line c) (h : k.cnt + 1 < 8) :
    k.takeBit q now =
      { k with
        marks := k.marksWith w q, armFall := false, cnt := k.cnt + 1
        mosiAcc := shiftIn k.mosiAcc (highAt w .mosi q), misoAcc := shiftIn k.misoAcc (highAt w .miso q) } := by
  unfold Circuit.takeBit Circuit.marksWith markerAt
  simp only [hnow]
  exact if_neg (by omega)

/-- The bit at sample `q` of the capture, the eighth of its word. -/
theorem takeBit_of_eq {w : List Instant} {q : Nat} {k : Circuit} {now : Instant}
    (hnow : ∀ c, highAt w c q = now.line c) (h : k.cnt + 1 = 8) :
    k.takeBit q now =
      { k with
        marks := k.marksWith w q, armFall := false, cnt := 0, mosiAcc := 0, misoAcc := 0
        txn := if k.txn.length < 33 then k.txn ++ [k.wordWith w q] else k.txn } := by
  unfold Circuit.takeBit Circuit.wordWith Circuit.marksWith markerAt
  simp only [hnow]
  exact if_pos h

theorem HoldsPoints.marksWith_take {w : List Instant} {pts : List Nat} {k : Circuit} (h : HoldsPoints w pts k)
    (q : Nat) : (k.marksWith w q).toList.take (k.cnt + 1) = (partialWord pts ++ [q]).map (markerAt w) := by
  have hcnt : k.cnt < k.marks.toList.length := by
    rw [Vector.length_toList, h.cnt]
    omega
  rw [Circuit.marksWith, Vector.toList_setIfInBounds, take_succ_set hcnt, h.marks, List.map_append]
  rfl

/-- The word completed by the eighth bit is that of the closed form. -/
theorem HoldsPoints.wordWith_eq {w : List Instant} {pts : List Nat} {k : Circuit} (h : HoldsPoints w pts k)
    (hcnt : k.cnt + 1 = 8) (q : Nat) : k.wordWith w q = wordOfPoints w (partialWord pts ++ [q]) := by
  have hlen : (partialWord pts ++ [q]).length = 8 := by
    rw [List.length_append, List.length_singleton, length_partialWord, ← h.cnt, hcnt]
  have hmarks : k.marksWith w q = (wordOfPoints w (partialWord pts ++ [q])).marks := by
    rw [← Vector.toList_inj, wordOfPoints_marks_toList w hlen, ← h.marksWith_take q, hcnt, List.take_of_length_le]
    simp
  unfold Circuit.wordWith
  rw [hmarks, h.mosiAcc, h.misoAcc]
  simp [wordOfPoints, markerAt]

theorem HoldsPoints.takeBit {w : List Instant} {pts : List Nat} {k : Circuit} {q : Nat} {now : Instant}
    (h : HoldsPoints w pts k) (hnow : ∀ c, highAt w c q = now.line c) :
    HoldsPoints w (pts ++ [q]) (k.takeBit q now) := by
  have hlt : k.cnt < 8 := by
    rw [h.cnt]
    omega
  have hlen : (pts ++ [q]).length % 8 = (pts.length % 8 + 1) % 8 := by
    rw [List.length_append, List.length_singleton]
    omega
  rcases Nat.lt_or_eq_of_le (Nat.succ_le_of_lt hlt) with hcnt | hcnt
  · obtain ⟨hwords, hpart⟩ := words_append_of_lt (by rwa [← h.cnt]) w q
    rw [takeBit_of_lt hnow hcnt]
    refine ⟨?_, ?_, ?_, ?_, ?_⟩
    · rw [hwords]
      exact h.txn
    · rw [hlen, ← h.cnt]
      exact (Nat.mod_eq_of_lt hcnt).symm
    · rw [hpart, List.foldl_append, ← h.mosiAcc]
      rfl
    · rw [hpart, List.foldl_append, ← h.misoAcc]
      rfl
    · rw [hpart]
      exact h.marksWith_take q
  · obtain ⟨hwords, hpart⟩ := words_append_of_eq (by rwa [← h.cnt]) w q
    rw [takeBit_of_eq hnow hcnt]
    refine ⟨?_, ?_, ?_, ?_, ?_⟩
    · rw [hwords, ← retained_take, ← h.txn, ← h.wordWith_eq hcnt q]
    · rw [hlen, ← h.cnt, show k.cnt + 1 = 8 from hcnt]
    · rw [hpart]
      rfl
    · rw [hpart]
      rfl
    · rw [hpart]
      rfl

/-- The bit leaves the window as it is and disarms the falling edge. -/
theorem takeBit_frame (k : Circuit) (q : Nat) (now : Instant) :
    (k.takeBit q now).inTxn = k.inTxn ∧ (k.takeBit q now).a = k.a ∧ (k.takeBit q now).handedOver = k.handedOver ∧
      (k.takeBit q now).armFall = false := by
  unfold Circuit.takeBit
  dsimp only
  split <;> exact ⟨rfl, rfl, rfl, rfl⟩

/-! ### The points of a window up to a sample -/

theorem clockEdges_succ {w : List Instant} {p d : Nat} (h : p < d) :
    clockEdges w p (d + 1) = clockEdges w p d ++ if edgeAt w .sck d then [d] else [] := by
  rw [clockEdges_eq_valuesAfter, clockEdges_eq_valuesAfter, valuesAfter_succ _ h]
  cases hedge : edgeAt w .sck d <;> simp [Option.guard, hedge]

theorem risingEdges_succ {w : List Instant} {p d : Nat} (h : p < d) :
    risingEdges w p (d + 1) = risingEdges w p d ++ if edgeAt w .sck d && highAt w .sck d then [d] else [] := by
  unfold risingEdges
  rw [clockEdges_succ h, List.filter_append]
  cases hedge : edgeAt w .sck d <;> cases hhigh : highAt w .sck d <;> simp [hhigh]

theorem clockEdges_self (w : List Instant) (a : Nat) : clockEdges w a (a + 1) = [] :=
  List.eq_nil_iff_forall_not_mem.mpr fun e he => by
    have := mem_clockEdges.mp he
    omega

/-- The circuit's `arm_fall` after the samples before `d`: the window began with the clock high and has had no clock edge
yet (R120). -/
def armedBefore (w : List Instant) (a d : Nat) : Bool := highAt w .sck a && (clockEdges w a d).isEmpty

/-- The circuit's condition for taking a bit at sample `d` (R120) is that `d` is a sampling point of the window (R98). -/
theorem samplingPoints_succ {w : List Instant} {a d : Nat} (h : a < d) :
    samplingPoints w a (d + 1) =
      samplingPoints w a d ++
        if edgeAt w .sck d && (highAt w .sck d || armedBefore w a d) then [d] else [] := by
  cases hlevel : highAt w .sck a with
  | false =>
    rw [samplingPoints_of_low _ hlevel, samplingPoints_of_low _ hlevel, risingEdges_succ h]
    simp [armedBefore, hlevel]
  | true =>
    rcases clockEdges_cases w a d with ⟨hnil, -⟩ | ⟨e, he, hed, hcons⟩
    · rw [samplingPoints_eq_nil hnil, List.nil_append]
      have hnext := clockEdges_succ (w := w) h
      rw [hnil, List.nil_append] at hnext
      cases hedge : edgeAt w .sck d with
      | false =>
        rw [hedge] at hnext
        exact samplingPoints_eq_nil hnext
      | true =>
        rw [hedge] at hnext
        unfold samplingPoints
        cases hd : highAt w .sck d <;> simp [hnext, hlevel, hd, armedBefore, hnil]
    · rw [samplingPoints_of_high he hed hlevel, samplingPoints_of_high he (Nat.lt_succ_of_lt hed) hlevel,
        risingEdges_succ hed]
      simp [armedBefore, hcons]

theorem armedBefore_succ {w : List Instant} {a d : Nat} (h : a < d) :
    armedBefore w a (d + 1) = (armedBefore w a d && !edgeAt w .sck d) := by
  unfold armedBefore
  rw [clockEdges_succ h, Bool.and_assoc]
  cases hedge : edgeAt w .sck d <;> simp

/-! ### The circuit inside a window -/

/-- After sample `p` the circuit is inside the window that began at `a`, with the sampling points so far taken. -/
structure InWindow (w : List Instant) (a p : Nat) (k : Circuit) : Prop where
  inTxn : k.inTxn = true
  start : k.a = a
  fall : fallAt w .csn a = true
  begun : a ≤ p
  low : ∀ q, a ≤ q → q ≤ p → highAt w .csn q = false
  points : HoldsPoints w (samplingPoints w a (p + 1)) k
  armed : k.armFall = armedBefore w a (p + 1)

/-- At the assertion sample the circuit has taken nothing yet. -/
theorem inWindow_begin {w : List Instant} {a : Nat} {k : Circuit} {now : Instant}
    (hnow : ∀ c, highAt w c a = now.line c) (hfall : fallAt w .csn a = true) :
    InWindow w a a
      { k with inTxn := true, a := a, txn := [], cnt := 0, mosiAcc := 0, misoAcc := 0, armFall := now.sck } where
  inTxn := rfl
  start := rfl
  fall := hfall
  begun := Nat.le_refl a
  low q h1 h2 := by
    rw [Nat.le_antisymm h2 h1]
    exact (edgeAt_of_fallAt hfall).2
  points := by
    rw [samplingPoints_eq_nil (clockEdges_self w a)]
    exact ⟨rfl, rfl, rfl, rfl, rfl⟩
  armed := by
    rw [armedBefore, clockEdges_self, hnow]
    exact (Bool.and_true _).symm

/-- Inside the window the circuit takes a bit exactly at a sampling point (R120). -/
theorem InWindow.clock_low {w : List Instant} {a p : Nat} {k : Circuit} {prev now : Instant} (h : InWindow w a p k)
    (hin : p + 1 < w.length) (hprev : ∀ c, highAt w c p = prev.line c) (hnow : ∀ c, highAt w c (p + 1) = now.line c)
    (hlow : now.csn = false) :
    InWindow w a (p + 1) (k.clock (p + 1) prev now) ∧ (k.clock (p + 1) prev now).handedOver = k.handedOver := by
  have hlast : a < p + 1 := Nat.lt_succ_of_le h.begun
  have hedge : edgeAt w .sck (p + 1) = (prev.sck != now.sck) := by
    rw [edgeAt, Nat.add_sub_cancel, hprev, hnow]
    simp [hin, Instant.line]
  have hstep : k.clock (p + 1) prev now =
      if prev.sck != now.sck && (now.sck || k.armFall) then k.takeBit (p + 1) now else k := by
    simp [Circuit.clock, h.inTxn, hlow]
  have hlow' : ∀ q, a ≤ q → q ≤ p + 1 → highAt w .csn q = false := fun q h1 h2 => by
    rcases Nat.lt_or_eq_of_le h2 with h3 | rfl
    · exact h.low q h1 (Nat.le_of_lt_succ h3)
    · exact (hnow .csn).trans hlow
  have hpts := samplingPoints_succ (w := w) hlast
  have harm := armedBefore_succ (w := w) hlast
  rw [← h.armed, hedge, show highAt w .sck (p + 1) = now.sck from hnow .sck] at hpts
  rw [← h.armed, hedge] at harm
  rw [hstep]
  split
  case isTrue hbit =>
    obtain ⟨hin', hstart', hhanded, hdisarm⟩ := takeBit_frame k (p + 1) now
    rw [if_pos hbit] at hpts
    refine ⟨⟨hin'.trans h.inTxn, hstart'.trans h.start, h.fall, by omega, hlow', ?_, ?_⟩, hhanded⟩
    · rw [hpts]
      exact h.points.takeBit hnow
    · rw [hdisarm, harm]
      simp only [Bool.and_eq_true] at hbit
      simp [hbit.1]
  case isFalse hbit =>
    rw [if_neg hbit, List.append_nil] at hpts
    refine ⟨⟨h.inTxn, h.start, h.fall, by omega, hlow', by rw [hpts]; exact h.points, ?_⟩, rfl⟩
    rw [harm]
    revert hbit
    cases k.armFall <;> cases prev.sck <;> cases now.sck <;> simp

/-- At the deassertion sample the circuit hands over the window's Transaction (R120). -/
theorem InWindow.clock_high {w : List Instant} {a p : Nat} {k : Circuit} (h : InWindow w a p k) (prev : Instant)
    {now : Instant} (hhigh : now.csn = true) :
    (k.clock (p + 1) prev now).inTxn = false ∧
      (k.clock (p + 1) prev now).handedOver = k.handedOver ++ [transactionOfWindow w a (p + 1)] := by
  have hclock : k.clock (p + 1) prev now =
      { k with
        inTxn := false
        handedOver := k.handedOver ++ [⟨BitVec.ofNat 6 k.txn.length, k.txn, k.a, p + 1⟩] } := by
    simp [Circuit.clock, h.inTxn, hhigh]
  rw [hclock, h.points.txn, h.start]
  exact ⟨rfl, rfl⟩

/-! ### The circuit over a whole capture -/

/-- The first sample of what is left of a capture, and the rest. -/
theorem drop_eq_cons {w rest : List Instant} {p : Nat} {x : Instant} (h : w.drop p = x :: rest) :
    p < w.length ∧ (∀ c, highAt w c p = x.line c) ∧ w.drop (p + 1) = rest := by
  have hp : p < w.length := by
    by_contra hge
    rw [List.drop_eq_nil_of_le (Nat.le_of_not_lt hge)] at h
    cases h
  rw [List.drop_eq_getElem_cons hp, List.cons.injEq] at h
  obtain ⟨rfl, hrest⟩ := h
  exact ⟨hp, fun c => highAt_getElem hp, hrest⟩

theorem windowsAfter_succ {w : List Instant} {p : Nat} (h : p + 1 < w.length) :
    windowsAfter w p = (windowAt w (p + 1)).toList ++ windowsAfter w (p + 1) := by
  cases hwin : windowAt w (p + 1) with
  | none =>
    refine valuesAfter_skip _ (Nat.le_succ p) fun r h1 h2 => ?_
    rw [Nat.le_antisymm h2 h1]
    exact hwin
  | some x => exact valuesAfter_eq_cons (Nat.lt_succ_self p) h hwin fun q h1 h2 => by omega

/-- While chip-select stays low no edge and no window begins. -/
theorem not_edgeAt_of_low {w : List Instant} {a p : Nat} (hlow : ∀ q, a ≤ q → q ≤ p → highAt w .csn q = false) :
    ∀ q, a < q → q ≤ p → edgeAt w .csn q = false := fun q h1 h2 => by
  rw [edgeAt, hlow (q - 1) (by omega) (by omega), hlow q (by omega) h2]
  simp

/-- What the circuit hands over from a sample on: outside a window the Transactions of the windows ahead, inside one also
that of the window it is in, if it ends. -/
theorem clockAll_handedOver {w : List Instant} {p : Nat} {prev : Instant} {rest : List Instant} (k : Circuit)
    (hdrop : w.drop p = prev :: rest) :
    (k.inTxn = false →
      (k.clockAll (p + 1) prev rest).handedOver =
        k.handedOver ++ (windowsAfter w p).map fun x => transactionOfWindow w x.1 x.2) ∧
    ∀ a, InWindow w a p k →
      (k.clockAll (p + 1) prev rest).handedOver =
        k.handedOver ++ ((windowAt w a).toList ++ windowsAfter w a).map fun x => transactionOfWindow w x.1 x.2 := by
  obtain ⟨hp, hprev, hrest⟩ := drop_eq_cons hdrop
  induction rest generalizing k p prev with
  | nil =>
    have hend : w.length ≤ p + 1 := by simpa using hrest
    have hnone : ∀ q, p ≤ q → windowsAfter w q = [] := fun q hq => valuesAfter_eq_nil fun r h1 h2 => by omega
    refine ⟨fun _ => ?_, fun a hwin => ?_⟩
    · rw [hnone p (Nat.le_refl p)]
      exact (List.append_nil _).symm
    · have hedge := not_edgeAt_of_low hwin.low
      have hwindow : windowAt w a = none := by
        rw [windowAt, if_pos hwin.fall, Option.map_eq_none_iff, nextEdge_eq_none_iff]
        intro q hq
        rcases Nat.lt_or_ge p q with hpq | hqp
        · rw [Bool.eq_false_iff, Ne, edgeAt_eq_true_iff]
          omega
        · exact hedge q hq hqp
      have hafter : windowsAfter w a = windowsAfter w p :=
        valuesAfter_skip _ hwin.begun fun r h1 h2 => windowAt_of_not_fall (fallAt_of_not_edgeAt (hedge r h1 h2))
      rw [hwindow, hafter, hnone p (Nat.le_refl p)]
      exact (List.append_nil _).symm
  | cons now rest ih =>
    obtain ⟨hin, hnow, hrest'⟩ := drop_eq_cons hrest
    obtain ⟨ihOut, ihIn⟩ := ih (k.clock (p + 1) prev now) hrest hin hnow hrest'
    refine ⟨fun hidle => ?_, fun a hwin => ?_⟩
    · have hfall : fallAt w .csn (p + 1) = (prev.csn && !now.csn) := by
        rw [fallAt, edgeAt, Nat.add_sub_cancel, hprev, hnow]
        cases hc : prev.csn <;> cases hd : now.csn <;> simp [Instant.line, hin, hc, hd]
      rw [windowsAfter_succ hin]
      cases hopen : prev.csn && !now.csn with
      | true =>
        have hclock : k.clock (p + 1) prev now =
            { k with inTxn := true, a := p + 1, txn := [], cnt := 0, mosiAcc := 0, misoAcc := 0, armFall := now.sck } := by
          rw [Circuit.clock, if_pos hidle, if_pos hopen]
        rw [Circuit.clockAll, ihIn (p + 1) (by rw [hclock]; exact inWindow_begin hnow (hfall.trans hopen)), hclock]
      | false =>
        have hclock : k.clock (p + 1) prev now = k := by
          rw [Circuit.clock, if_pos hidle, if_neg (Bool.eq_false_iff.mp hopen)]
        rw [Circuit.clockAll, ihOut (by rw [hclock]; exact hidle), hclock, windowAt_of_not_fall (hfall.trans hopen)]
        rfl
    · cases hcsn : now.csn with
      | false =>
        obtain ⟨hwin', hhanded⟩ := hwin.clock_low hin hprev hnow hcsn
        rw [Circuit.clockAll, ihIn a hwin', hhanded]
      | true =>
        obtain ⟨hout, hhanded⟩ := hwin.clock_high prev hcsn
        have hedge := not_edgeAt_of_low hwin.low
        have hhigh : highAt w .csn (p + 1) = true := (hnow .csn).trans hcsn
        have hend : edgeAt w .csn (p + 1) = true := by
          rw [edgeAt, Nat.add_sub_cancel, hwin.low p hwin.begun (Nat.le_refl p), hhigh]
          simp [hin]
        have hwindow : windowAt w a = some (a, p + 1) :=
          windowAt_eq_some hwin.fall
            ⟨Nat.lt_succ_of_le hwin.begun, hend, fun q h1 h2 => hedge q h1 (Nat.le_of_lt_succ h2)⟩
        have hafter : windowsAfter w a = windowsAfter w (p + 1) :=
          valuesAfter_skip _ (Nat.le_succ_of_le hwin.begun) fun r h1 h2 => windowAt_of_not_fall <| by
            rcases Nat.lt_or_eq_of_le h2 with h3 | rfl
            · exact fallAt_of_not_edgeAt (hedge r h1 (Nat.le_of_lt_succ h3))
            · simp [fallAt, hhigh]
        rw [Circuit.clockAll, ihOut hout, hhanded, hwindow, hafter, List.append_assoc]
        rfl

/-- The circuit hands over the Transactions of the windows, in order. -/
theorem perSampleTransactions_eq (w : List Instant) :
    perSampleTransactions w = (windowsOf w).map fun x => transactionOfWindow w x.1 x.2 := by
  cases w with
  | nil => rfl
  | cons x rest =>
    obtain ⟨hout, -⟩ := clockAll_handedOver (w := x :: rest) (p := 0) Circuit.reset rfl
    rw [← windowsAfter_zero]
    exact hout rfl

end Sys2Proof.Machine

open Sys2Proof Sys2Proof.Machine

/-- Settles O40: both hand over the Transactions of the windows of the capture. -/
theorem perSampleCircuitHandsOverTheSameTransactions : Obligations.PerSampleCircuitHandsOverTheSameTransactions := by
  intro w hw
  obtain ⟨t, hexec, hout⟩ := exec_run_startOf hw []
  refine ⟨t, hexec, ?_⟩
  rw [hout, (run_of_no_draw (draws := []) nofun (windowsOf w)).1, transactionsOf_windows, perSampleTransactions_eq]

end

-- ==== What does not steer the block ====
section
/-! PROOFS. Noninterference: a relation that the Sampler's reads do not see through and its writes keep is kept by the whole
Sampler. The data lines are such a relation (R99), and so is the stage after the block, which the relation for every operation
of the block leaves out (R140). -/

namespace Sys2Proof.Machine

/-! ### Outcomes alike -/

/-- Two outcomes that stop alike, or go on to related values. -/
inductive Alike {α β : Type} (R : α → β → Prop) : Res α → Res β → Prop where
  | next {a : α} {b : β} (h : R a b) : Alike R (.next a) (.next b)
  | fault (r : Fault) : Alike R (.fault r) (.fault r)
  | refused (r : Refusal) : Alike R (.refused r) (.refused r)

theorem Alike.andThen {α β γ δ : Type} {R : α → β → Prop} {Q : γ → δ → Prop} {x : Res α} {y : Res β} {f : α → Res γ}
    {g : β → Res δ} (hx : Alike R x y) (hf : ∀ a b, R a b → Alike Q (f a) (g b)) :
    Alike Q (andThen x f) (andThen y g) := by
  cases hx with
  | next h => exact hf _ _ h
  | fault r => exact .fault r
  | refused r => exact .refused r

/-- If the first of two outcomes that are alike goes on, so does the second, to a related value. -/
theorem Alike.exists_next {α β : Type} {R : α → β → Prop} {a : α} {y : Res β} (h : Alike R (.next a) y) :
    ∃ b, y = .next b ∧ R a b := by
  cases h with
  | next h => exact ⟨_, rfl, h⟩

/-- Related states with the same answer of a part of the Sampler. -/
def Answers (R : State → State → Prop) (x y : State × Bool) : Prop := R x.1 y.1 ∧ x.2 = y.2

theorem Alike.answer {R : State → State → Prop} {s u : State} (h : R s u) (ok : Bool) :
    Alike (Answers R) (.next (s, ok)) (.next (u, ok)) :=
  .next ⟨h, rfl⟩

theorem Alike.unlessEnd {R : State → State → Prop} {x y : Res (State × Bool)} {f g : State → Res (State × Bool)}
    (hx : Alike (Answers R) x y) (hf : ∀ s u, R s u → Alike (Answers R) (f s) (g u)) :
    Alike (Answers R) (unlessEnd x f) (unlessEnd y g) := by
  refine hx.andThen fun ⟨s, ok⟩ ⟨u, ok'⟩ h => ?_
  obtain ⟨hs, rfl⟩ : R s u ∧ ok = ok' := h
  cases ok
  · exact .answer hs false
  · exact hf s u hs

theorem Alike.requireOp {R : State → State → Prop} {s u : State} {x y : Res State} (need : Option CtrlState)
    (hcap : s.capture = [] ↔ u.capture = []) (hst : s.st = u.st) (h : Alike R x y) :
    Alike R (requireOp need s x) (requireOp need u y) := by
  by_cases h1 : s.capture = []
  · rw [requireOp_noCapture h1, requireOp_noCapture (hcap.mp h1)]
    exact .refused _
  · have h1' : u.capture ≠ [] := fun hu => h1 (hcap.mpr hu)
    by_cases h2 : s.st = .halted
    · rw [requireOp_halted h1 h2, requireOp_halted h1' (hst.symm.trans h2)]
      exact .fault _
    · have hrun : Running s := ⟨h1, h2⟩
      have hrun' : Running u := ⟨h1', fun hu => h2 (hst.trans hu)⟩
      cases need with
      | none =>
        rw [requireOp_none hrun, requireOp_none hrun']
        exact h
      | some z =>
        by_cases h3 : s.st = z
        · rw [requireOp_some hrun h3, requireOp_some hrun' (hst.symm.trans h3)]
          exact h
        · rw [requireOp_wrongState hrun h3, requireOp_wrongState hrun' fun hu => h3 (hst.trans hu)]
          exact .refused _

/-! ### Relations the Sampler keeps -/

theorem readLevel_outside {s : State} {c : Channel} (h : ¬ s.cur.get c < s.size) :
    readLevel c s = .fault .sampleOutsideCapture := by
  have hnone : sampleAt s.capture c (s.cur.get c) = none := by
    rw [← Option.not_isSome_iff_eq_none, sampleAt_isSome_iff]
    exact h
  rw [readLevel, hnone]

/-- The bit recorded with these values of the data lines (R94). -/
def bitWith (m q : Bool) (s : State) : State :=
  { s with
    marks := s.marks.set s.bitIdx.toNat ⟨s.cur.sck, dirOfBit s.fall, m, q⟩ s.bitIdx.isLt
    mosiAcc := shiftIn s.mosiAcc m
    misoAcc := shiftIn s.misoAcc q
    fall := false }

/-- What the Sampler asks of a relation `R` of states, with `D` for the data bits read in them: the control it reads is the
same in related states, and each of its writes keeps `R`. -/
structure SamplerKeeps (R : State → State → Prop) (D : Bool → Bool → Prop) : Prop where
  cur : ∀ {s u}, R s u → u.cur = s.cur
  selHigh : ∀ {s u}, R s u → u.selHigh = s.selHigh
  fall : ∀ {s u}, R s u → u.fall = s.fall
  size : ∀ {s u}, R s u → u.size = s.size
  clockEdge : ∀ {s u}, R s u → ∀ p, nextEdge u.capture .sck p = nextEdge s.capture .sck p
  clockLevel : ∀ {s u}, R s u → ∀ p, highAt u.capture .sck p = highAt s.capture .sck p
  data : ∀ {s u}, R s u → ∀ c p, D (highAt s.capture c p) (highAt u.capture c p)
  setCursor : ∀ {s u}, R s u → ∀ c v, R (s.setCursor c v) (u.setCursor c v)
  cleared : ∀ {s u}, R s u → R (cleared s) (cleared u)
  setFall : ∀ {s u}, R s u → ∀ b, R { s with fall := b } { u with fall := b }
  setBitIdx : ∀ {s u}, R s u → ∀ i, R { s with bitIdx := i } { u with bitIdx := i }
  bitWith : ∀ {s u}, R s u → ∀ {m m' q q'}, D m m' → D q q' → R (bitWith m q s) (bitWith m' q' u)
  complete : ∀ {s u}, R s u → R (completeByte s) (completeByte u)

section
variable {R : State → State → Prop} {D : Bool → Bool → Prop} (hR : SamplerKeeps R D) {s u : State}
include hR

theorem SamplerKeeps.seekTo (c : Channel) (p : Nat) (h : R s u) : Alike R (seekTo c p s) (seekTo c p u) := by
  unfold Machine.seekTo
  rw [hR.cur h, hR.size h]
  split
  · exact .refused _
  · split
    · exact .refused _
    · exact .next (hR.setCursor h c p)

theorem SamplerKeeps.seekAll (p : Nat) (h : R s u) : Alike R (seekAll p s) (seekAll p u) :=
  (hR.seekTo .sck p h).andThen fun _ _ h1 => (hR.seekTo .csn p h1).andThen fun _ _ h2 =>
    (hR.seekTo .mosi p h2).andThen fun _ _ h3 => hR.seekTo .miso p h3

theorem SamplerKeeps.syncLines (h : R s u) : Alike R (syncLines s) (syncLines u) := by
  unfold Machine.syncLines
  rw [hR.cur h]
  exact (hR.seekTo .csn _ h).andThen fun _ _ h1 => (hR.seekTo .mosi _ h1).andThen fun _ _ h2 => hR.seekTo .miso _ h2

/-- A level is read at the same place, or outside the capture in both states. -/
theorem SamplerKeeps.readLevel {Q : Bool → Bool → Prop} (c : Channel) (h : R s u)
    (hQ : ∀ p, Q (highAt s.capture c p) (highAt u.capture c p)) : Alike Q (readLevel c s) (readLevel c u) := by
  have hcur := hR.cur h
  have hsize := hR.size h
  by_cases hin : s.cur.get c < s.size
  · rw [readLevel_inside hin, readLevel_inside (by rwa [hcur, hsize]), hcur]
    exact .next (hQ _)
  · rw [readLevel_outside hin, readLevel_outside (by rwa [hcur, hsize])]
    exact .fault _

theorem SamplerKeeps.readClock (h : R s u) : Alike Eq (Machine.readLevel .sck s) (Machine.readLevel .sck u) :=
  hR.readLevel .sck h fun p => (hR.clockLevel h p).symm

theorem SamplerKeeps.advanceClock (h : R s u) : Alike (Answers R) (advanceClock s) (advanceClock u) := by
  unfold Machine.advanceClock
  simp only [hR.cur h, hR.selHigh h, hR.clockEdge h]
  split
  · have hland : Alike R (landOnDeassertion s) (landOnDeassertion u) := by
      unfold landOnDeassertion
      rw [hR.selHigh h]
      exact hR.seekAll _ h
    exact hland.andThen fun _ _ h1 => .answer h1 false
  · exact .answer (hR.setCursor h _ _) true

/-- The clock advances in both states, or nothing happens in either. -/
theorem SamplerKeeps.advanceIf (cond : Bool) (h : R s u) :
    Alike (Answers R) (if cond then Machine.advanceClock s else .next (s, true))
      (if cond then Machine.advanceClock u else .next (u, true)) := by
  cases cond
  · exact .answer h true
  · exact hR.advanceClock h

theorem SamplerKeeps.recordBit (h : R s u) : Alike R (recordBit s) (recordBit u) :=
  (hR.syncLines h).andThen fun _ _ h1 =>
    (hR.readLevel .mosi h1 (hR.data h1 .mosi)).andThen fun _ _ hm =>
      (hR.readLevel .miso h1 (hR.data h1 .miso)).andThen fun _ _ hq => .next (hR.bitWith h1 hm hq)

theorem SamplerKeeps.sampleBit (h : R s u) : Alike (Answers R) (sampleBit s) (sampleBit u) := by
  unfold Machine.sampleBit
  rw [hR.fall h]
  exact (hR.advanceIf s.fall h).unlessEnd fun _ _ h1 => (hR.recordBit h1).andThen fun _ _ h2 => .answer h2 true

theorem SamplerKeeps.samplerEntry (first : Bool) (h : R s u) :
    Alike (Answers R) (samplerEntry first s) (samplerEntry first u) := by
  rw [samplerEntry_eq, samplerEntry_eq]
  refine (hR.readClock (hR.cleared h)).andThen fun high _ hhigh => ?_
  subst hhigh
  refine (hR.advanceIf (high && !first) (hR.cleared h)).unlessEnd fun s1 u1 h1 => ?_
  refine (hR.readClock h1).andThen fun now _ hnow => ?_
  subst hnow
  cases now
  · exact hR.advanceClock h1
  · exact .answer (hR.setFall h1 _) true

theorem SamplerKeeps.interBit (h : R s u) : Alike (Answers R) (interBit s) (interBit u) := by
  refine (hR.readClock h).andThen fun high _ hhigh => ?_
  subst hhigh
  exact (hR.advanceIf high h).unlessEnd fun _ _ h1 => hR.advanceClock h1

theorem SamplerKeeps.sampleBits (left : Nat) (h : R s u) :
    Alike (Answers R) (sampleBits left s) (sampleBits left u) := by
  induction left generalizing s u with
  | zero => exact .answer h true
  | succ left ih =>
    rw [sampleBits_succ, sampleBits_succ]
    refine (hR.sampleBit (hR.setBitIdx h _)).unlessEnd fun s1 u1 h1 => ?_
    split
    · exact .answer h1 true
    · exact (hR.interBit h1).unlessEnd fun _ _ h2 => ih h2

theorem SamplerKeeps.sampleByte (first : Bool) (h : R s u) :
    Alike (Answers R) (sampleByte first s) (sampleByte first u) :=
  (hR.samplerEntry first h).unlessEnd fun _ _ h1 =>
    (hR.sampleBits 8 h1).unlessEnd fun _ _ h2 => .answer (hR.complete h2) true

end

/-! ### The data lines (R99) -/

/-- The samples and directions of the markers, which the clock alone decides. -/
def markTimes (v : Vector BitMarker 8) : List (Nat × EdgeDir) := v.toList.map fun m => (m.sample, m.dir)

theorem markTimes_set (v : Vector BitMarker 8) {i : Nat} (hi : i < 8) (p : Nat) (dir : EdgeDir) (m q : Bool) :
    markTimes (v.set i ⟨p, dir, m, q⟩) = (markTimes v).set i (p, dir) := by
  rw [markTimes, Vector.toList_set, List.map_set]
  rfl

/-- Two states with the same clock line and the same control, whatever the data lines and the values taken from them. -/
structure SameControl (s u : State) : Prop where
  length : u.capture.length = s.capture.length
  clock : ∀ p, highAt u.capture .sck p = highAt s.capture .sck p
  cur : u.cur = s.cur
  selHigh : u.selHigh = s.selHigh
  fall : u.fall = s.fall
  bitIdx : u.bitIdx = s.bitIdx
  marks : markTimes u.marks = markTimes s.marks

theorem samplerKeeps_sameControl : SamplerKeeps SameControl fun _ _ => True where
  cur h := h.cur
  selHigh h := h.selHigh
  fall h := h.fall
  size h := h.length
  clockEdge h := nextEdge_congr h.length h.clock
  clockLevel h := h.clock
  data _ _ _ := trivial
  setCursor h c v := ⟨h.length, h.clock, by rw [State.setCursor_cur, State.setCursor_cur, h.cur], h.selHigh, h.fall,
    h.bitIdx, h.marks⟩
  cleared h := ⟨h.length, h.clock, h.cur, h.selHigh, rfl, h.bitIdx, h.marks⟩
  setFall h _ := ⟨h.length, h.clock, h.cur, h.selHigh, rfl, h.bitIdx, h.marks⟩
  setBitIdx h _ := ⟨h.length, h.clock, h.cur, h.selHigh, h.fall, rfl, h.marks⟩
  bitWith {s u} h m m' q q' _ _ := by
    refine ⟨h.length, h.clock, h.cur, h.selHigh, rfl, h.bitIdx, ?_⟩
    unfold bitWith
    rw [markTimes_set, markTimes_set, h.marks, h.cur, h.fall, h.bitIdx]
  complete h := ⟨h.length, h.clock, h.cur, h.selHigh, h.fall, h.bitIdx, h.marks⟩

/-! ### The stage after the block (R140) -/

/-- The same state but for the stage after the block. -/
def WithDown (d : Downstream) (s u : State) : Prop := u = { s with down := d }

theorem Alike.eq_replaceDown {d : Downstream} {x y : Res State} (h : Alike (WithDown d) x y) : y = replaceDown d x := by
  cases h with
  | next h => exact congrArg Host.Outcome.next h
  | fault r => rfl
  | refused r => rfl

theorem samplerKeeps_withDown (d : Downstream) : SamplerKeeps (WithDown d) Eq where
  cur h := by rw [h]
  selHigh h := by rw [h]
  fall h := by rw [h]
  size h := by rw [h]; rfl
  clockEdge h p := by rw [h]
  clockLevel h p := by rw [h]
  data h c p := by rw [h]
  setCursor h c v := by rw [h]; rfl
  cleared h := by rw [h]; rfl
  setFall h b := by rw [h]; rfl
  setBitIdx h i := by rw [h]; rfl
  bitWith h _ _ _ _ hm hq := by rw [h, hm, hq]; rfl
  complete h := by rw [h]; rfl

theorem withDown_requireOp {d : Downstream} (need : Option CtrlState) (s : State) {x y : Res State}
    (h : Alike (WithDown d) x y) : Alike (WithDown d) (requireOp need s x) (requireOp need { s with down := d } y) :=
  h.requireOp need Iff.rfl rfl

section
variable (d : Downstream) (s : State)

theorem execBitstate_withDown (c : Channel) :
    Alike (WithDown d) (execBitstate c s) (execBitstate c { s with down := d }) := by
  have hread : Alike Eq (readLevel c s) (readLevel c { s with down := d }) :=
    (samplerKeeps_withDown d).readLevel c rfl fun _ => rfl
  refine withDown_requireOp _ s (hread.andThen ?_)
  rintro high _ rfl
  exact .next rfl

theorem execNextedge_withDown (c : Channel) :
    Alike (WithDown d) (execNextedge c s) (execNextedge c { s with down := d }) := by
  refine withDown_requireOp _ s ?_
  dsimp only
  split
  · exact .refused _
  · exact .next rfl

theorem execSeek_withDown (c : Channel) (p : Nat) :
    Alike (WithDown d) (execSeek c p s) (execSeek c p { s with down := d }) :=
  withDown_requireOp _ s ((samplerKeeps_withDown d).seekTo c p rfl)

theorem execPeekedge_withDown (c : Channel) :
    Alike (WithDown d) (execPeekedge c s) (execPeekedge c { s with down := d }) := by
  refine withDown_requireOp _ s ?_
  dsimp only
  split
  · exact .refused _
  · exact .next rfl

theorem execMoreedges_withDown (c : Channel) :
    Alike (WithDown d) (execMoreedges c s) (execMoreedges c { s with down := d }) :=
  withDown_requireOp _ s (.next rfl)

/-- A part of the Sampler whose answer is noted outside the stage after the block. -/
theorem noteAnswer_withDown {x y : Res (State × Bool)} {note : State × Bool → State}
    (h : Alike (Answers (WithDown d)) x y)
    (hnote : ∀ s ok, note ({ s with down := d }, ok) = { note (s, ok) with down := d }) :
    Alike (WithDown d) (andThen x fun r => .next (note r)) (andThen y fun r => .next (note r)) := by
  refine h.andThen fun ⟨s, ok⟩ ⟨u, ok'⟩ hr => ?_
  obtain ⟨rfl, rfl⟩ : u = { s with down := d } ∧ ok = ok' := hr
  exact .next (hnote s ok)

theorem execAdvsck_withDown : Alike (WithDown d) (execAdvsck s) (execAdvsck { s with down := d }) :=
  withDown_requireOp _ s <| noteAnswer_withDown d ((samplerKeeps_withDown d).advanceClock rfl) fun _ _ => rfl

theorem execSync_withDown : Alike (WithDown d) (execSync s) (execSync { s with down := d }) :=
  withDown_requireOp _ s ((samplerKeeps_withDown d).syncLines rfl)

theorem execSamplebit_withDown : Alike (WithDown d) (execSamplebit s) (execSamplebit { s with down := d }) :=
  withDown_requireOp _ s <| noteAnswer_withDown d ((samplerKeeps_withDown d).sampleBit rfl) fun _ _ => rfl

theorem execSamplebyte_withDown (first : Bool) :
    Alike (WithDown d) (execSamplebyte first s) (execSamplebyte first { s with down := d }) :=
  withDown_requireOp _ s <| noteAnswer_withDown d ((samplerKeeps_withDown d).sampleByte first rfl) fun _ _ => rfl

theorem execCollect_withDown : Alike (WithDown d) (execCollect s) (execCollect { s with down := d }) :=
  withDown_requireOp _ s <| noteAnswer_withDown d ((samplerKeeps_withDown d).sampleByte s.first rfl) fun _ _ => rfl

theorem execFindsel_withDown : Alike (WithDown d) (execFindsel s) (execFindsel { s with down := d }) := by
  have hfind : findWindow { s with down := d } = findWindow s := rfl
  refine withDown_requireOp _ s ?_
  rw [hfind]
  cases findWindow s <;> exact .next rfl

theorem execHalt_withDown (cause : HaltCause) :
    Alike (WithDown d) (execHalt cause s) (execHalt cause { s with down := d }) := by
  refine withDown_requireOp _ s ?_
  split
  · exact .refused _
  · exact .next rfl

theorem execOpentxn_withDown (a b : Nat) :
    Alike (WithDown d) (execOpentxn a b s) (execOpentxn a b { s with down := d }) := by
  refine withDown_requireOp _ s (((samplerKeeps_withDown d).seekAll a rfl).andThen ?_)
  rintro u _ rfl
  exact .next rfl

theorem execPushbyte_withDown : Alike (WithDown d) (execPushbyte s) (execPushbyte { s with down := d }) := by
  have hretain : ∀ u : State, retainByte { u with down := d } = { retainByte u with down := d } := fun u => by
    unfold retainByte
    dsimp only
    split <;> rfl
  refine withDown_requireOp _ s (.next ?_)
  have hbyte := hretain (s.emitAll (markersOfByte s.byte))
  unfold WithDown
  change State.setCtrl { retainByte { s.emitAll (markersOfByte s.byte) with down := d } with first := false } .inTxn = _
  rw [hbyte]
  rfl

theorem handOver_withDown : Alike (WithDown d) (handOver s) (handOver { s with down := d }) := by
  unfold handOver
  dsimp only
  split
  · exact .next rfl
  · exact .refused _

theorem execEmitmark_withDown (p : Nat) (kind : MarkKind) (channel : Channel) :
    Alike (WithDown d) (execEmitmark p kind channel s) (execEmitmark p kind channel { s with down := d }) :=
  withDown_requireOp _ s (.next rfl)

theorem execEmittxn_withDown : Alike (WithDown d) (execEmittxn s) (execEmittxn { s with down := d }) :=
  withDown_requireOp _ s (handOver_withDown d s)

theorem execProgress_withDown (p : Nat) :
    Alike (WithDown d) (execProgress p s) (execProgress p { s with down := d }) :=
  withDown_requireOp _ s (.next rfl)

theorem execClosetxn_withDown : Alike (WithDown d) (execClosetxn s) (execClosetxn { s with down := d }) := by
  refine withDown_requireOp _ s (((samplerKeeps_withDown d).seekAll s.selHigh rfl).andThen ?_)
  rintro u _ rfl
  refine (handOver_withDown d (u.emit (.mark u.selHigh .stop .csn))).andThen ?_
  rintro v _ rfl
  exact .next rfl

theorem topOfLoop_withDown : Alike (WithDown d) (topOfLoop s) (topOfLoop { s with down := d }) := by
  have hread : readCancel { s with down := d } = ((readCancel s).1, { (readCancel s).2 with down := d }) := by
    unfold readCancel
    dsimp only
    split <;> rfl
  have hfind : findWindow { (readCancel s).2 with down := d } = findWindow (readCancel s).2 := rfl
  unfold topOfLoop
  rw [hread]
  dsimp only
  rw [hfind]
  split
  · exact execHalt_withDown d _ _
  · split
    · exact execHalt_withDown d _ _
    · exact execOpentxn_withDown d _ _ _

theorem transition_withDown {u : State} (h : WithDown d s u) : Alike (WithDown d) (transition s) (transition u) := by
  have hu : u.st = s.st := by rw [h]
  cases hst : s.st with
  | idle =>
    rw [transition_idle hst, transition_idle (hu.trans hst), h]
    exact topOfLoop_withDown d s
  | inTxn =>
    rw [transition_collect hst, transition_collect (hu.trans hst), h]
    exact execCollect_withDown d s
  | byteDone =>
    rw [transition_pushbyte hst, transition_pushbyte (hu.trans hst), h]
    exact execPushbyte_withDown d s
  | txnDone =>
    rw [transition_closetxn hst, transition_closetxn (hu.trans hst), h]
    exact execClosetxn_withDown d s
  | halted =>
    rw [transition_halted hst, transition_halted (hu.trans hst)]
    exact .fault _

theorem runTransitions_withDown (left : Nat) :
    Alike (WithDown d) (runTransitions left s) (runTransitions left { s with down := d }) := by
  induction left generalizing s with
  | zero =>
    unfold runTransitions
    dsimp only
    split
    · exact .next rfl
    · exact .refused _
  | succ left ih =>
    unfold runTransitions
    dsimp only
    split
    · exact .next rfl
    · refine (transition_withDown d s rfl).andThen ?_
      rintro u _ rfl
      exact ih u

theorem execRun_withDown : Alike (WithDown d) (execRun s) (execRun { s with down := d }) :=
  withDown_requireOp _ s (runTransitions_withDown d s _)

/-- No operation of the block sees the stage after it, or writes it (R140). -/
theorem exec_withDown {i : Instr} (hblock : isBlock i = true) :
    Alike (WithDown d) (exec i s) (exec i { s with down := d }) := by
  cases i with
  | bitstate c => exact execBitstate_withDown d s c
  | nextedge c => exact execNextedge_withDown d s c
  | seek c p => exact execSeek_withDown d s c p
  | peekedge c => exact execPeekedge_withDown d s c
  | moreedges c => exact execMoreedges_withDown d s c
  | advsck => exact execAdvsck_withDown d s
  | sync => exact execSync_withDown d s
  | samplebit => exact execSamplebit_withDown d s
  | samplebyte first => exact execSamplebyte_withDown d s first
  | findsel => exact execFindsel_withDown d s
  | opentxn a b => exact execOpentxn_withDown d s a b
  | collect => exact execCollect_withDown d s
  | pushbyte => exact execPushbyte_withDown d s
  | closetxn => exact execClosetxn_withDown d s
  | halt cause => exact execHalt_withDown d s cause
  | run => exact execRun_withDown d s
  | emitmark p kind channel => exact execEmitmark_withDown d s p kind channel
  | emittxn => exact execEmittxn_withDown d s
  | progress p => exact execProgress_withDown d s p
  | rRegister | wRegister | rRxPayload | wTxPayload | flushTx | flushRx | reuseTxPl | activate | rRxPlWid
  | wTxPayloadNoack | nop | wAckPayload => cases hblock

end

end Sys2Proof.Machine

open Sys2Proof Sys2Proof.Machine

/-- Settles O11: the Sampler keeps the relation of states that differ in the data lines and the values taken from them. -/
theorem dataLinesNeverSteerTheSampler : Obligations.DataLinesNeverSteerTheSampler := by
  intro s w first hready hlen hclock hcsn
  have hsame : SameControl s { s with capture := w } := ⟨hlen, hclock, rfl, rfl, rfl, rfl, rfl⟩
  have hrun : Running { s with capture := w } := by
    refine ⟨fun hw => hready.running.1 (List.length_eq_zero_iff.mp ?_), hready.running.2⟩
    rw [← hlen, show w = [] from hw]
    rfl
  have hexec : exec (.samplebyte first) { s with capture := w } = _ := requireOp_some hrun hready.inTxn _
  obtain ⟨t, ok, hbyte⟩ := exists_sampleByte first hready
  have halike := samplerKeeps_sameControl.sampleByte first hsame
  rw [hbyte] at halike
  obtain ⟨⟨u, ok'⟩, hother, hctrl, hok⟩ := halike.exists_next
  obtain rfl : ok = ok' := hok
  rw [exec_samplebyte first hready, hexec, hbyte, hother]
  exact ⟨_, _, rfl, rfl, hctrl.cur.symm, rfl, hctrl.fall.symm, hctrl.bitIdx.symm, hctrl.marks.symm⟩

/-- Settles O32: every operation of the block keeps the relation of states that differ in the stage after it. -/
theorem blockIgnoresTheStageAfterIt : Obligations.BlockIgnoresTheStageAfterIt := by
  intro s i d hblock
  exact (exec_withDown d s hblock).eq_replaceDown

end

-- ==== Words: decoder and encoder ====
section
/-! PROOFS. The issue word (R61, R66, R67, R69, R145): the decoder reads back what the encoder packs, and a word that decodes
is packed from its instruction; and what a step does with an issued word. -/

namespace Sys2Proof

/-! ### Reading a packed word -/

/-- A word whose small operand is not that of a command byte is read as an operation. -/
theorem decode_packWord {n k a b : Nat} (hn : n < 256) (hk : k < 128) (ha : a < 2 ^ 64) (hb : b < 2 ^ 64) :
    decode (packWord n k a b) = decodeOperation n k a b := by
  have hk' : k < 256 := by omega
  unfold decode
  rw [fieldSmall_packWord hn hk' ha hb, fieldNumber_packWord hn hk' ha hb, fieldSampleA_packWord hn hk' ha hb,
    fieldSampleB_packWord hn hk' ha hb]
  exact if_neg (Nat.ne_of_lt hk)

/-- The word of a command byte is read as the instruction that byte is. -/
theorem decode_packCommand {b : Byte} {i : Instr} (h : instrOfCommand b = some i) : decode (packCommand b) = .ok i := by
  obtain ⟨hnumber, hsmall, ha, hb⟩ := packCommand_fields b
  unfold decode decodeCommand
  rw [hsmall, if_pos rfl, hnumber, ha, hb, BitVec.ofNat_toNat, BitVec.setWidth_eq, h]
  rfl

theorem decodeCommand_undefined {b : Byte} (h : classify b = .undefined) :
    decode (packCommand b) = .bad (.undefinedCommand b) := by
  obtain ⟨hnumber, hsmall, ha, hb⟩ := packCommand_fields b
  unfold decode decodeCommand instrOfCommand
  rw [hsmall, if_pos rfl, hnumber, ha, hb, BitVec.ofNat_toNat, BitVec.setWidth_eq, h]
  rfl

theorem acceptIf_eq_ok {c : Bool} {i j : Instr} : acceptIf c i = .ok j ↔ c = true ∧ i = j := by
  cases c <;> simp [acceptIf]

/-! ### The encoder's words -/

theorem sampleFits_iff (p : Nat) : sampleFits p = true ↔ p < 2 ^ 64 := decide_eq_true_iff

/-- A channel's code, as a small operand, is not that of a command byte. -/
theorem channel_lt (c : Channel) : c.code < 128 := Nat.lt_trans c.code_lt (by norm_num)

theorem decode_encode {i : Instr} (h : i.fits = true) : decode (encode i) = .ok i := by
  have hsmall : ∀ {n k : Nat}, n < 256 → k < 128 → decode (packWord n k 0 0) = decodeOperation n k 0 0 :=
    fun hn hk => decode_packWord hn hk (by norm_num) (by norm_num)
  cases i with
  | bitstate c | nextedge c | peekedge c | moreedges c =>
    rw [encode, hsmall (by norm_num) (channel_lt c)]
    simp [decodeOperation, c.code_lt, acceptIf]
  | seek c p =>
    rw [encode, decode_packWord (by norm_num) (channel_lt c) ((sampleFits_iff p).mp h) (by norm_num)]
    simp [decodeOperation, c.code_lt, acceptIf]
  | samplebyte first =>
    rw [encode, hsmall (by norm_num) (by cases first <;> decide)]
    cases first <;> rfl
  | opentxn a d =>
    obtain ⟨ha, hd⟩ := Bool.and_eq_true_iff.mp h
    rw [encode, decode_packWord (by norm_num) (by norm_num) ((sampleFits_iff a).mp ha) ((sampleFits_iff d).mp hd)]
    rfl
  | halt cause =>
    rw [encode, hsmall (by norm_num) (Nat.lt_trans cause.code_lt (by norm_num))]
    cases cause <;> rfl
  | emitmark p kind channel =>
    have hk := kind.code_lt
    have hc := channel.code_lt
    have hdiv : (channel.code + 4 * kind.code) / 4 = kind.code := by omega
    have hmod : (channel.code + 4 * kind.code) % 4 = channel.code % 4 := by omega
    have hchannel : channelOfCode (channel.code + 4 * kind.code) = channel := by
      rw [channelOfCode, hmod]
      exact channelOfCode_code channel
    rw [encode, decode_packWord (by norm_num) (by omega) ((sampleFits_iff p).mp h) (by norm_num)]
    simp [decodeOperation, hdiv, hchannel, acceptIf, show channel.code + 4 * kind.code < 32 by omega]
  | progress p =>
    rw [encode, decode_packWord (by norm_num) (by norm_num) ((sampleFits_iff p).mp h) (by norm_num)]
    rfl
  | advsck | sync | samplebit | findsel | collect | pushbyte | closetxn | run | emittxn =>
    rw [encode, hsmall (by norm_num) (by norm_num)]
    rfl
  | rRegister r =>
    obtain ⟨hclass, hregister⟩ := classify_rRegister r
    exact decode_packCommand (by rw [instrOfCommand, hclass, hregister])
  | wRegister r =>
    obtain ⟨hclass, hregister⟩ := classify_wRegister r
    exact decode_packCommand (by rw [instrOfCommand, hclass, hregister])
  | wAckPayload pipe =>
    obtain ⟨hclass, hpipe⟩ := classify_wAckPayload pipe
    exact decode_packCommand (by rw [instrOfCommand, hclass, hpipe])
  | rRxPayload | wTxPayload | flushTx | flushRx | reuseTxPl | activate | rRxPlWid | wTxPayloadNoack | nop =>
    exact decode_packCommand (by decide)

/-! ### What a word decodes from -/

/-- The byte of a class, with the register or pipe of `b` where the class has one (R145). -/
def commandByte (b : Byte) : CmdOpcode → Byte
  | .rRegister => 0b000#3 ++ cmdRegister b
  | .wRegister => 0b001#3 ++ cmdRegister b
  | .rRxPayload => 0x61
  | .wTxPayload => 0xA0
  | .flushTx => 0xE1
  | .flushRx => 0xE2
  | .reuseTxPl => 0xE3
  | .activate => 0x50
  | .rRxPlWid => 0x60
  | .wTxPayloadNoack => 0xB0
  | .nop => 0xFF
  | .wAckPayload => 0b10101#5 ++ cmdPipe b
  | .undefined => b

/-- A byte is the one of its class, register and pipe. -/
theorem commandByte_classify (b : Byte) : commandByte b (classify b) = b := by
  revert b
  decide

theorem encode_of_instrOfCommand {b : Byte} {i : Instr} (h : instrOfCommand b = some i) :
    encode i = packCommand b ∧ i.fits = true := by
  have hbyte := commandByte_classify b
  unfold instrOfCommand at h
  cases hclass : classify b with
  | undefined =>
    rw [hclass] at h
    cases h
  | rRegister | wRegister | rRxPayload | wTxPayload | flushTx | flushRx | reuseTxPl | activate | rRxPlWid
  | wTxPayloadNoack | nop | wAckPayload =>
    rw [hclass] at h hbyte
    cases h
    exact ⟨congrArg packCommand hbyte, rfl⟩

theorem encode_of_decodeCommand {n a b : Nat} {i : Instr} (hn : n < 256) (h : decodeCommand n a b = .ok i) :
    encode i = packWord n commandSpace a b ∧ i.fits = true := by
  unfold decodeCommand at h
  split at h
  next j hj =>
    obtain ⟨hzero, rfl⟩ := acceptIf_eq_ok.mp h
    obtain ⟨henc, hfits⟩ := encode_of_instrOfCommand hj
    simp only [Bool.and_eq_true, beq_iff_eq] at hzero
    obtain ⟨rfl, rfl⟩ := hzero
    rw [henc, packCommand, BitVec.toNat_ofNat, Nat.mod_eq_of_lt hn]
    exact ⟨rfl, hfits⟩
  next => split at h <;> cases h

theorem code_of_haltCauseOfCode {n : Nat} {c : HaltCause} (h : haltCauseOfCode n = some c) : c.code = n := by
  unfold haltCauseOfCode at h
  split at h <;> cases h <;> rfl

theorem code_of_markKindOfCode {n : Nat} {k : MarkKind} (h : markKindOfCode n = some k) : k.code = n := by
  unfold markKindOfCode at h
  split at h <;> cases h <;> rfl

/-- Every channel's code is in the low two bits (R61). -/
theorem code_channelOfCode_mod (n : Nat) : (channelOfCode n).code = n % 4 := by
  have hmod : channelOfCode n = channelOfCode (n % 4) := by
    rw [channelOfCode, channelOfCode, Nat.mod_mod]
  rw [hmod, code_channelOfCode (Nat.mod_lt n (by norm_num))]

/-- An operation's word is packed from its number and its operands. -/
theorem encode_of_decodeOperation {n k a b : Nat} {i : Instr} (ha : a < 2 ^ 64) (hb : b < 2 ^ 64)
    (h : decodeOperation n k a b = .ok i) : encode i = packWord n k a b ∧ i.fits = true := by
  have hsample : ∀ {p : Nat}, p < 2 ^ 64 → sampleFits p = true := fun hp => (sampleFits_iff _).mpr hp
  unfold decodeOperation at h
  split at h
  -- no operand but a channel: BITSTATE, NEXTEDGE, PEEKEDGE, MOREEDGES
  case h_1 | h_2 | h_4 | h_5 =>
    obtain ⟨hzero, rfl⟩ := acceptIf_eq_ok.mp h
    simp only [Bool.and_eq_true, beq_iff_eq, decide_eq_true_eq] at hzero
    obtain ⟨⟨hk, rfl⟩, rfl⟩ := hzero
    rw [encode, code_channelOfCode hk]
    exact ⟨rfl, rfl⟩
  -- SEEK
  case h_3 =>
    obtain ⟨hzero, rfl⟩ := acceptIf_eq_ok.mp h
    simp only [Bool.and_eq_true, beq_iff_eq, decide_eq_true_eq] at hzero
    obtain ⟨hk, rfl⟩ := hzero
    rw [encode, code_channelOfCode hk]
    exact ⟨rfl, hsample ha⟩
  -- SAMPLEBYTE
  case h_9 =>
    obtain ⟨hzero, rfl⟩ := acceptIf_eq_ok.mp h
    simp only [Bool.and_eq_true, beq_iff_eq, decide_eq_true_eq] at hzero
    obtain ⟨⟨hk, rfl⟩, rfl⟩ := hzero
    interval_cases k <;> exact ⟨rfl, rfl⟩
  -- OPENTXN
  case h_11 =>
    obtain ⟨hzero, rfl⟩ := acceptIf_eq_ok.mp h
    obtain rfl : k = 0 := by simpa using hzero
    exact ⟨rfl, Bool.and_eq_true_iff.mpr ⟨hsample ha, hsample hb⟩⟩
  -- HALT
  case h_15 =>
    split at h
    case isFalse => cases h
    split at h
    next cause hcause =>
      obtain ⟨hzero, rfl⟩ := acceptIf_eq_ok.mp h
      simp only [Bool.and_eq_true, beq_iff_eq] at hzero
      obtain ⟨rfl, rfl⟩ := hzero
      rw [encode, code_of_haltCauseOfCode hcause]
      exact ⟨rfl, rfl⟩
    next => cases h
  -- EMITMARK
  case h_17 =>
    split at h
    case isFalse => cases h
    split at h
    next kind hkind =>
      obtain ⟨hzero, rfl⟩ := acceptIf_eq_ok.mp h
      obtain rfl : b = 0 := by simpa using hzero
      rw [encode, code_of_markKindOfCode hkind, code_channelOfCode_mod, Nat.mod_add_div]
      exact ⟨rfl, hsample ha⟩
    next => cases h
  -- PROGRESS
  case h_19 =>
    obtain ⟨hzero, rfl⟩ := acceptIf_eq_ok.mp h
    simp only [Bool.and_eq_true, beq_iff_eq] at hzero
    obtain ⟨rfl, rfl⟩ := hzero
    exact ⟨rfl, hsample ha⟩
  -- a number that names no operation
  case h_20 => cases h
  -- the operations without operands
  all_goals
    obtain ⟨hzero, rfl⟩ := acceptIf_eq_ok.mp h
    simp only [Bool.and_eq_true, beq_iff_eq] at hzero
    obtain ⟨⟨rfl, rfl⟩, rfl⟩ := hzero
    exact ⟨rfl, rfl⟩

theorem field_bounds (w : OpWord) : fieldNumber w < 256 ∧ fieldSampleA w < 2 ^ 64 ∧ fieldSampleB w < 2 ^ 64 :=
  ⟨Nat.mod_lt _ (by norm_num), Nat.mod_lt _ (by norm_num), Nat.mod_lt _ (by norm_num)⟩

theorem encode_of_decode {w : OpWord} {i : Instr} (h : decode w = .ok i) : encode i = w ∧ i.fits = true := by
  obtain ⟨hn, ha, hb⟩ := field_bounds w
  have hfields := packWord_fields w
  unfold decode at h
  split at h
  next hsmall =>
    rw [hsmall] at hfields
    obtain ⟨henc, hfits⟩ := encode_of_decodeCommand hn h
    exact ⟨henc.trans hfields, hfits⟩
  next =>
    obtain ⟨henc, hfits⟩ := encode_of_decodeOperation ha hb h
    exact ⟨henc.trans hfields, hfits⟩

/-- A number that R69 does not list names no operation (R70). -/
theorem decodeOperation_reserved {n : Nat} (h : n ∉ opNumbers) (k a b : Nat) :
    decodeOperation n k a b = .bad .reservedNumber := by
  unfold decodeOperation
  split
  case h_20 => rfl
  all_goals exact absurd (by decide) h

end Sys2Proof

namespace Sys2Proof.Machine

/-! ### A step with an issued word -/

/-- A step takes the oldest issued word and runs it on the state without it. -/
theorem step_of_issued {s : State} {w : OpWord} {rest : List OpWord} (h : s.issue = w :: rest) :
    step s = runWord w { s with issue := rest } := by
  rw [step, takeIssued_cons h]

theorem runWord_of_decode {w : OpWord} {i : Instr} (h : decode w = .ok i) (s : State) : runWord w s = exec i s := by
  rw [runWord, h]

/-- The state that a loaded word runs on: a capture where there was none, and ST as the operation's rule names it. -/
def loadedState (i : Instr) (s : State) : State :=
  { s with
    capture := if s.capture = [] then stubCapture else s.capture
    st := (needsState i).getD s.st }

theorem loadWord_of_decode {w : OpWord} {i : Instr} (h : decode w = .ok i) (s : State) :
    loadWord w s = { loadedState i s with issue := w :: s.issue } := by
  unfold loadWord loadedState
  cases hneed : needsState i with
  | none =>
    simp only [h, hneed]
    split <;> rfl
  | some x =>
    simp only [h, hneed]
    split <;> rfl

theorem decode_of_decodeTableWord {nbits w : Nat} {i : Instr} (h : decodeTableWord nbits w = some i) :
    decode (tableWord nbits w) = .ok i := by
  unfold decodeTableWord at h
  split at h
  next j hj =>
    rw [hj, Option.some.inj h]
  next => cases h

end Sys2Proof.Machine

open Sys2Proof Sys2Proof.Machine

/-- Settles O44: the fields of a packed word are the ones it was packed from, and the operand codes read back. -/
theorem decodeEncodeGivesInstructionBack : Obligations.DecodeEncodeGivesInstructionBack :=
  fun _ h => decode_encode h

/-- Settles O45: the decoder accepts an operation only with zeros in the bits it gives no meaning, and a byte has one class. -/
theorem encodeDecodeGivesWordBack : Obligations.EncodeDecodeGivesWordBack :=
  fun _ _ h => encode_of_decode h

/-- Settles O46: the word is read as an operation, and its number is none of the nineteen. -/
theorem reservedNumbersNameNoOperation : Obligations.ReservedNumbersNameNoOperation := by
  intro s w rest hissue hsmall hnumber
  have hdecode : decode w = .bad .reservedNumber := by
    rw [decode, if_neg hsmall]
    exact decodeOperation_reserved hnumber _ _ _
  rw [step_of_issued hissue, runWord, hdecode]
  rfl

/-- Settles O47: each of the ten words evaluated. -/
theorem wordsOfTheTableDecode : Obligations.WordsOfTheTableDecode := by
  unfold Obligations.WordsOfTheTableDecode
  decide

/-- Settles O48: the issue port is the first thing a step looks at; a loaded word is the oldest there. -/
theorem stepRunsTheIssuedInstruction : Obligations.StepRunsTheIssuedInstruction := by
  refine ⟨fun s w rest i hissue hdecode => ?_, fun s hissue => step_of_no_issue hissue, fun s nbits w i htable => ?_⟩
  · rw [step_of_issued hissue, runWord_of_decode hdecode]
  · have hdecode := decode_of_decodeTableWord htable
    refine ⟨loadedState i s, ?_, rfl, fun hcap => if_neg hcap⟩
    rw [State.withFetchWord, loadWord_of_decode hdecode,
      step_of_issued (s := { loadedState i s with issue := tableWord nbits w :: s.issue }) rfl,
      runWord_of_decode hdecode]
    rfl

end

-- ==== Downstream: assembling and decoding ====
section
/-! PROOFS. The stage after the block (R141 to R152): what an opcode carries, the frames of a Transaction, the payload read
back, what an issued command byte does, and that the stores only grow. -/

namespace Sys2Proof.Machine

/-! ### What an opcode carries (R146) -/

theorem carriesNothing_of_mem {op : CmdOpcode} (h : op ∈ [CmdOpcode.flushTx, .flushRx, .reuseTxPl, .nop]) :
    cmdCarriesNothing op = true := by
  revert h
  cases op <;> decide

theorem carriesPayload_of_mem {op : CmdOpcode}
    (h : op ∈ [CmdOpcode.wTxPayload, .rRxPayload, .wAckPayload, .wTxPayloadNoack]) :
    cmdCarriesPayload op = true ∧ cmdCarriesNothing op = false := by
  revert h
  cases op <;> decide

theorem not_isRegister {op : CmdOpcode} (h : cmdCarriesNothing op = true ∨ cmdCarriesPayload op = true) :
    cmdIsRegister op = false := by
  revert h
  cases op <;> decide

theorem cmdIsRegister_iff (op : CmdOpcode) : cmdIsRegister op = true ↔ op = .rRegister ∨ op = .wRegister := by
  cases op <;> decide

theorem cmdHasAddress_of_not_register {op : CmdOpcode} (h : cmdIsRegister op = false) (r : BitVec 5) :
    cmdHasAddress op r = false := by
  rw [cmdHasAddress, h]
  rfl

theorem cmdCarriesData_of_nothing {op : CmdOpcode} (h : cmdCarriesNothing op = true) (r : BitVec 5) :
    cmdCarriesData op r = false :=
  if_pos h

theorem cmdCarriesData_of_payload {op : CmdOpcode} (h1 : cmdCarriesPayload op = true) (h2 : cmdCarriesNothing op = false)
    (r : BitVec 5) : cmdCarriesData op r = true := by
  simp [cmdCarriesData, h1, h2]

/-- What has an address is a register opcode, and carries data (R146). -/
theorem cmdCarriesData_of_address {op : CmdOpcode} {r : BitVec 5} (h : cmdHasAddress op r = true) :
    cmdCarriesData op r = true := by
  have hnothing : cmdCarriesNothing op = false := by
    rw [Bool.eq_false_iff]
    intro hno
    rw [cmdHasAddress_of_not_register (not_isRegister (.inl hno))] at h
    cases h
  simp [cmdCarriesData, hnothing, h]

/-! ### The frames of a Transaction -/

/-- A single byte gives one CommandFrame over the whole window (R149). -/
theorem assemble_single {t : Transaction} {b : SampledByte} (h : t.bytes = [b]) (storeLength : Nat) :
    assemble t storeLength = some (⟨b.mosi, b.miso, t.selectLow, t.selectHigh, cmdAnomaly b.mosi⟩, none) ∧
      assembledBytes t = [] := by
  unfold assemble assembledBytes
  rw [h]
  exact ⟨rfl, rfl⟩

/-- More bytes give a CommandFrame and a DataFrame that meet at the midpoint (R148). -/
theorem assemble_pair {t : Transaction} {b c : SampledByte} {more : List SampledByte} (h : t.bytes = b :: c :: more)
    (hlen : (c :: more).length ≤ 32) (storeLength : Nat) :
    assemble t storeLength =
      some (⟨b.mosi, b.miso, t.selectLow, midSample b.lastSample c.firstSample, cmdAnomaly b.mosi⟩,
        some (dataFrameOf b.mosi (c :: more) (midSample b.lastSample c.firstSample) t.selectHigh storeLength)) ∧
      assembledBytes t = extendedBytes (payloadOf b.mosi (c :: more)) := by
  have hcap : ¬ Config.maxTxnBytes < (b :: c :: more).length := Nat.not_lt.mpr (Nat.succ_le_succ hlen)
  unfold assemble assembledBytes
  rw [h, if_neg hcap, if_neg hcap]
  exact ⟨rfl, rfl⟩

/-- The midpoint, whichever way it is rounded (R148). -/
theorem midSample_bounds (x y : Nat) : 2 * midSample x y ≤ x + y + 1 ∧ x + y ≤ 2 * midSample x y + 1 := by
  unfold midSample
  split
  next hodd =>
    simp only [Bool.and_eq_true, decide_eq_true_eq] at hodd
    omega
  next => omega

/-! ### The payload read back (R150) -/

/-- Up to 16 bytes are split over the two fields, and nothing is stored (R148). -/
theorem stored_inline {bytes : List Byte} (h : bytes.length ≤ 16) (storeLength : Nat) :
    storePayload bytes storeLength = .inline (bytes.take 8) (bytes.drop 8) ∧ extendedBytes bytes = [] :=
  ⟨if_pos h, if_pos h⟩

/-- More than 16 bytes are stored, and the payload is the offset at which they begin (R148). -/
theorem stored_extended {bytes : List Byte} (h : 16 < bytes.length) (storeLength : Nat) :
    storePayload bytes storeLength = .extended storeLength ∧ extendedBytes bytes = bytes :=
  ⟨if_neg (Nat.not_le.mpr h), if_neg (Nat.not_le.mpr h)⟩

/-- A stored payload of its full length is copied back exactly, whatever the store holds before and after it. -/
theorem loadPayload_storePayload {f : DataFrame} {bytes store : List Byte} (later : List Byte)
    (hlen : f.length = bytes.length) (hpay : f.payload = storePayload bytes store.length) :
    loadPayload f (store ++ extendedBytes bytes ++ later) = bytes := by
  rw [loadPayload, hpay, hlen]
  rcases Nat.lt_or_ge 16 bytes.length with hlong | hshort
  · rw [(stored_extended hlong _).1, (stored_extended hlong 0).2]
    simp
  · rw [(stored_inline hshort _).1]
    simp

/-- Decoding the frames of a Transaction gives back its payload where the opcode carries data (R150). -/
theorem payload_decodeFrames {t : Transaction} {b : SampledByte} {rest : List SampledByte} (store later : List Byte)
    (h : t.bytes = b :: rest) (hlen : rest.length ≤ 32)
    (hcarries : cmdCarriesData (classify b.mosi) (cmdRegister b.mosi) = true) :
    ∃ f d, assemble t store.length = some (f, d) ∧
      (decodeFrames f d (store ++ assembledBytes t ++ later)).payload = payloadOf b.mosi rest := by
  cases rest with
  | nil =>
    refine ⟨_, _, (assemble_single h store.length).1, ?_⟩
    simp [decodeFrames, decodedOf, payloadOf]
  | cons c more =>
    obtain ⟨hframes, hbytes⟩ := assemble_pair h hlen store.length
    refine ⟨_, _, hframes, ?_⟩
    rw [hbytes]
    refine (if_pos hcarries).trans ?_
    exact loadPayload_storePayload later rfl rfl

/-! ### The rows of R145 as instructions -/

theorem registerByte_eq (r : BitVec 5) :
    (0b000#3 ++ r : Byte) = BitVec.ofNat 8 r.toNat ∧ (0b001#3 ++ r : Byte) = BitVec.ofNat 8 (0x20 + r.toNat) := by
  revert r
  decide

theorem pipeByte_eq (pipe : BitVec 3) : (0b10101#5 ++ pipe : Byte) = BitVec.ofNat 8 (0xA8 + pipe.toNat) := by
  revert pipe
  decide

/-- A command byte's instruction meets the stage after the block with the byte of its row. -/
theorem exec_commandRow {i : Instr} {row : CommandRow} (h : commandRow i = some row) (s : State) :
    exec i s = .next (issueCommand row.byte s) := by
  cases i with
  | rRegister r =>
    cases h
    exact congrArg (fun b => Host.Outcome.next (issueCommand b s)) (registerByte_eq r).1
  | wRegister r =>
    cases h
    exact congrArg (fun b => Host.Outcome.next (issueCommand b s)) (registerByte_eq r).2
  | wAckPayload pipe =>
    cases h
    exact congrArg (fun b => Host.Outcome.next (issueCommand b s)) (pipeByte_eq pipe)
  | rRxPayload | wTxPayload | flushTx | flushRx | reuseTxPl | activate | rRxPlWid | wTxPayloadNoack | nop =>
    cases h
    rfl
  | _ => cases h

/-- The class, register and pipe of a row's byte are the row's (R145). -/
theorem classify_commandRow {i : Instr} {row : CommandRow} (h : commandRow i = some row) :
    classify row.byte = row.opcode ∧ registerOfCommand row.byte = row.register.map registerName ∧
      pipeOfCommand row.byte = row.pipe := by
  unfold registerOfCommand pipeOfCommand
  cases i with
  | rRegister r =>
    cases h
    obtain ⟨hclass, hregister⟩ := classify_rRegister r
    dsimp only
    rw [← (registerByte_eq r).1, hclass, hregister]
    exact ⟨rfl, rfl, rfl⟩
  | wRegister r =>
    cases h
    obtain ⟨hclass, hregister⟩ := classify_wRegister r
    dsimp only
    rw [← (registerByte_eq r).2, hclass, hregister]
    exact ⟨rfl, rfl, rfl⟩
  | wAckPayload pipe =>
    cases h
    obtain ⟨hclass, hpipe⟩ := classify_wAckPayload pipe
    dsimp only
    rw [← pipeByte_eq pipe, hclass, hpipe]
    exact ⟨rfl, rfl, rfl⟩
  | rRxPayload | wTxPayload | flushTx | flushRx | reuseTxPl | activate | rRxPlWid | wTxPayloadNoack | nop =>
    cases h
    decide
  | _ => cases h

theorem commandRow_opcode_ne_undefined {i : Instr} {row : CommandRow} (h : commandRow i = some row) :
    row.opcode ≠ .undefined := by
  cases i <;> cases h <;> nofun

/-- The anomaly of a command byte is an undefined class, or the undefined register (R154). -/
theorem cmdAnomaly_eq (b : Byte) :
    cmdAnomaly b =
      (decide (classify b = .undefined) || decide (registerOfCommand b = some .undefinedRegister)) := by
  unfold cmdAnomaly registerOfCommand
  cases cmdIsRegister (classify b) <;> simp

theorem cmdAnomaly_commandRow {i : Instr} {row : CommandRow} (h : commandRow i = some row) :
    cmdAnomaly row.byte = decide (row.register = some 0x1F) := by
  obtain ⟨hclass, hregister, -⟩ := classify_commandRow h
  rw [cmdAnomaly_eq, hclass, hregister, decide_eq_false (commandRow_opcode_ne_undefined h), Bool.false_or]
  refine decide_eq_decide.mpr ?_
  cases row.register with
  | none => simp
  | some r => simp [registerName]

/-! ### An issued command byte -/

/-- A waiting Transaction of 1 to 33 bytes that begins with the issued byte is assembled (R147). -/
theorem acceptCommandByte_of_match {t : Transaction} {more : List Transaction} {b : SampledByte} {rest : List SampledByte}
    {byte : Byte} (d : Downstream) (h : t.bytes = b :: rest) (hlen : rest.length ≤ 32) (hbyte : b.mosi = byte) :
    acceptCommandByte byte (t :: more) d = acceptTransaction t d := by
  obtain ⟨f, data, hassemble, hopcode⟩ := assemble_cons h hlen d.extStore.length
  rw [acceptCommandByte, hassemble]
  exact if_pos (hopcode.trans hbyte)

/-- The stage after a Transaction that gives frames has been accepted (R152). -/
theorem acceptTransaction_of_assemble {t : Transaction} {d : Downstream} {f : CommandFrame} {data : Option DataFrame}
    (h : assemble t d.extStore.length = some (f, data)) :
    acceptTransaction t d =
      { assembled := d.assembled + 1
        frames := d.frames ++ (Frame.command f :: (data.map Frame.data).toList)
        extStore := d.extStore ++ assembledBytes t
        commits := d.commits + 1
        viewed := some d.frames.length } := by
  rw [acceptTransaction, h]

/-! ### The Transaction of a row's command byte -/

section
variable {i : Instr} {row : CommandRow} {t : Transaction} {b : SampledByte} (d : Downstream)

/-- The payload of a Transaction that begins with a row's byte is on the line of the row's opcode. -/
theorem payloadOf_commandRow (hrow : commandRow i = some row) (hbyte : b.mosi = row.byte) (rest : List SampledByte) :
    payloadOf b.mosi rest = rest.map (byteOnLine (lineOfCommand row.opcode)) := by
  rw [payloadOf, hbyte, (classify_commandRow hrow).1]

/-- What is seen of the assembled Transaction is its row's opcode, pipe and register, and its payload (R144, R150). -/
theorem decoded_of_commandRow {rest : List SampledByte} (hrow : commandRow i = some row) (hbytes : t.bytes = b :: rest)
    (hlen : rest.length ≤ 32) (hbyte : b.mosi = row.byte) :
    ∃ x, (acceptTransaction t d).decoded = some x ∧ x.opcode = row.opcode ∧ x.pipe = row.pipe ∧
      x.register = row.register.map registerName ∧
      (cmdCarriesData row.opcode (cmdRegister row.byte) = true →
        x.payload = rest.map (byteOnLine (lineOfCommand row.opcode))) := by
  obtain ⟨hclass, hregister, hpipe⟩ := classify_commandRow hrow
  obtain ⟨f, data, hassemble, hopcode⟩ := assemble_cons hbytes hlen d.extStore.length
  replace hopcode : f.opcodeByte = row.byte := hopcode.trans hbyte
  refine ⟨_, acceptTransaction_decoded hassemble, ?_, ?_, ?_, fun hcarries => ?_⟩
  · exact (congrArg classify hopcode).trans hclass
  · exact (congrArg pipeOfCommand hopcode).trans hpipe
  · exact (congrArg registerOfCommand hopcode).trans hregister
  · rw [← hclass, ← hbyte] at hcarries
    obtain ⟨f', data', hassemble', hpayload⟩ := payload_decodeFrames d.extStore [] hbytes hlen hcarries
    rw [hassemble] at hassemble'
    cases hassemble'
    rw [List.append_nil] at hpayload
    rw [hpayload, payloadOf_commandRow hrow hbyte]

/-- The stores after a Transaction of one byte (R149). -/
theorem stores_of_single (hrow : commandRow i = some row) (hbytes : t.bytes = [b]) (hbyte : b.mosi = row.byte) :
    (acceptTransaction t d).extStore = d.extStore ∧
      (acceptTransaction t d).frames =
        d.frames ++ [.command ⟨b.mosi, b.miso, t.selectLow, t.selectHigh, decide (row.register = some 0x1F)⟩] := by
  obtain ⟨hframe, hstored⟩ := assemble_single hbytes d.extStore.length
  rw [acceptTransaction_of_assemble hframe, hstored, ← cmdAnomaly_commandRow hrow, ← hbyte]
  exact ⟨List.append_nil _, rfl⟩

/-- The stores after a Transaction of more bytes (R148). -/
theorem stores_of_pair {c : SampledByte} {more : List SampledByte} (hrow : commandRow i = some row)
    (hbytes : t.bytes = b :: c :: more) (hlen : (c :: more).length ≤ 32) (hbyte : b.mosi = row.byte) :
    (acceptTransaction t d).extStore =
        d.extStore ++ extendedBytes ((c :: more).map (byteOnLine (lineOfCommand row.opcode))) ∧
      (acceptTransaction t d).frames =
        d.frames ++
          [.command ⟨b.mosi, b.miso, t.selectLow, midSample b.lastSample c.firstSample,
             decide (row.register = some 0x1F)⟩,
           .data ⟨(c :: more).length, lineOfCommand row.opcode, midSample b.lastSample c.firstSample, t.selectHigh,
             storePayload ((c :: more).map (byteOnLine (lineOfCommand row.opcode))) d.extStore.length,
             !cmdCarriesData row.opcode (cmdRegister row.byte)⟩] := by
  obtain ⟨hframes, hstored⟩ := assemble_pair hbytes hlen d.extStore.length
  have hpayload := payloadOf_commandRow hrow hbyte (c :: more)
  rw [acceptTransaction_of_assemble hframes, hstored, dataFrameOf, hpayload, List.length_map,
    ← cmdAnomaly_commandRow hrow, hbyte, (classify_commandRow hrow).1]
  exact ⟨rfl, rfl⟩

end

/-! ### What is added to the stores -/

/-- What is added to the stores: frames of which the first, if there is one, is a CommandFrame, and bytes (R143, R152). -/
def AppendsFrames (d e : Downstream) : Prop :=
  ∃ frames bytes, e.frames = d.frames ++ frames ∧ e.extStore = d.extStore ++ bytes ∧
    ∀ x, frames.head? ≠ some (.data x)

theorem AppendsFrames.refl (d : Downstream) : AppendsFrames d d :=
  ⟨[], [], (List.append_nil _).symm, (List.append_nil _).symm, nofun⟩

theorem acceptTransaction_appends (t : Transaction) (d : Downstream) : AppendsFrames d (acceptTransaction t d) := by
  cases h : assemble t d.extStore.length with
  | none =>
    rw [acceptTransaction, h]
    exact AppendsFrames.refl d
  | some x =>
    obtain ⟨f, data⟩ := x
    rw [acceptTransaction_of_assemble h]
    exact ⟨_, _, rfl, rfl, nofun⟩

theorem acceptCommandByte_appends (b : Byte) (ts : List Transaction) (d : Downstream) :
    AppendsFrames d (acceptCommandByte b ts d) := by
  induction ts generalizing d with
  | nil => exact AppendsFrames.refl d
  | cons t more ih =>
    unfold acceptCommandByte
    cases h : assemble t d.extStore.length with
    | none =>
      obtain ⟨frames, bytes, hframes, hbytes, hhead⟩ := ih (acceptTransaction t d)
      have hpassed : (acceptTransaction t d).frames = d.frames ∧ (acceptTransaction t d).extStore = d.extStore := by
        rw [acceptTransaction, h]
        exact ⟨rfl, rfl⟩
      rw [hpassed.1] at hframes
      rw [hpassed.2] at hbytes
      exact ⟨frames, bytes, hframes, hbytes, hhead⟩
    | some x =>
      dsimp only
      split
      · exact acceptTransaction_appends t d
      · exact AppendsFrames.refl d

/-! ### What a frame pair decodes to -/

/-- The DecodedCommand at an entry is that of the CommandFrame there and its DataFrame (R144). -/
theorem decodedAt_eq_some {d : Downstream} {i : Nat} {x : DecodedCommand} :
    d.decodedAt i = some x ↔
      ∃ f, d.frames[i]? = some (.command f) ∧ decodeFrames f (d.dataFrameAt i) d.extStore = x := by
  unfold Downstream.decodedAt
  split
  next f hf => simp [hf]
  next y hy => simp [hy]
  next hnone => simp [hnone]

/-- Frames appended after a pair do not become its DataFrame: the first of them is a CommandFrame (R152). -/
theorem dataFrameAt_append {d e : Downstream} {frames : List Frame} {i : Nat} (hframes : e.frames = d.frames ++ frames)
    (hhead : ∀ x, frames.head? ≠ some (.data x)) (hi : i < d.frames.length) : e.dataFrameAt i = d.dataFrameAt i := by
  unfold Downstream.dataFrameAt
  rw [hframes]
  rcases Nat.lt_or_ge (i + 1) d.frames.length with hlt | hge
  · rw [List.getElem?_append_left hlt]
  · rw [List.getElem?_append_right hge, List.getElem?_eq_none hge, show i + 1 - d.frames.length = 0 by omega,
      ← List.head?_eq_getElem?]
    cases hx : frames.head? with
    | none => rfl
    | some f =>
      cases f with
      | command f => rfl
      | data x => exact absurd hx (hhead x)

/-- A payload that lies in the store is the same when bytes are stored after it (R143). -/
theorem loadPayload_append {f : DataFrame} {store : List Byte} (later : List Byte)
    (h : ∀ offset, f.payload = .extended offset → offset + f.length ≤ store.length) :
    loadPayload f (store ++ later) = loadPayload f store := by
  unfold loadPayload
  cases hpay : f.payload with
  | inline a b => rfl
  | extended offset =>
    have hin := h offset hpay
    dsimp only
    rw [List.drop_append_of_le_length (by omega), List.take_append_of_le_length (by rw [List.length_drop]; omega)]

theorem AppendsFrames.decodedAt {d e : Downstream} {i : Nat} {x : DecodedCommand} (h : AppendsFrames d e)
    (hx : d.decodedAt i = some x)
    (hin : ∀ f offset, d.dataFrameAt i = some f → f.payload = .extended offset → offset + f.length ≤ d.extStore.length) :
    e.decodedAt i = some x := by
  obtain ⟨frames, bytes, hframes, hbytes, hhead⟩ := h
  obtain ⟨f, hf, rfl⟩ := decodedAt_eq_some.mp hx
  have hi : i < d.frames.length := (List.getElem?_eq_some_iff.mp hf).1
  refine decodedAt_eq_some.mpr ⟨f, by rw [hframes, List.getElem?_append_left hi, hf], ?_⟩
  rw [dataFrameAt_append hframes hhead hi, hbytes]
  cases hdata : d.dataFrameAt i with
  | none => rfl
  | some y =>
    have hload := loadPayload_append bytes fun offset => hin y offset hdata
    unfold decodeFrames
    dsimp only
    rw [hload]

end Sys2Proof.Machine

open Sys2Proof Sys2Proof.Machine

/-- Settles O50: the instruction issues its row's byte, whose class, register and pipe are the row's. -/
theorem commandBytesAreClassifiedInEveryState : Obligations.CommandBytesAreClassifiedInEveryState := by
  intro s i row hrow
  obtain ⟨hclass, hregister, hpipe⟩ := classify_commandRow hrow
  refine ⟨(issueCommand row.byte s).down, ?_⟩
  rw [exec_commandRow hrow, issueCommand_frame, classOf, hclass, hregister, hpipe]
  rfl

/-- Settles O52: an inline payload is split and joined again; an extended one is the bytes stored at its offset. -/
theorem decodingGivesThePayloadBack : Obligations.DecodingGivesThePayloadBack := by
  intro t b rest store later h hlen hcarries
  exact payload_decodeFrames store later h hlen hcarries

/-- Settles O51: the Transaction is assembled to one frame or two, and what it is decoded to is read back from them. -/
theorem commandAssemblesItsTransaction : Obligations.CommandAssemblesItsTransaction := by
  intro s i row t more b rest hrow hwait hbytes hlen hbyte
  have hdown : (issueCommand row.byte s).down = acceptTransaction t s.down := by
    rw [issueCommand, hwait]
    exact acceptCommandByte_of_match s.down hbytes hlen hbyte
  obtain ⟨f, data, hassemble, -⟩ := assemble_cons hbytes hlen s.down.extStore.length
  refine ⟨_, exec_commandRow hrow s, ?_⟩
  rw [hdown]
  refine ⟨by rw [acceptTransaction_of_assemble hassemble], by rw [acceptTransaction_of_assemble hassemble],
    decoded_of_commandRow s.down hrow hbytes hlen hbyte, fun hrest => ?single, fun c more' hrest => ?pair⟩
  case single =>
    subst hrest
    exact stores_of_single s.down hrow hbytes hbyte
  case pair =>
    subst hrest
    obtain ⟨hstore, hframes⟩ := stores_of_pair s.down hrow hbytes hlen hbyte
    obtain ⟨hmid1, hmid2⟩ := midSample_bounds b.lastSample c.firstSample
    refine ⟨_, _, _, _, fun hop => ?_, fun hop => ?_, fun hop => ?_, fun hop => ?_, hmid1, by omega, hframes,
      fun hshort => ?_, fun hlong => ?_⟩
    · rw [hop]
      rfl
    · rw [hop]
      rfl
    · rw [cmdCarriesData_of_nothing (carriesNothing_of_mem hop)]
      rfl
    · obtain ⟨h1, h2⟩ := carriesPayload_of_mem hop
      rw [cmdCarriesData_of_payload h1 h2]
      rfl
    · rw [← List.length_map (f := byteOnLine (lineOfCommand row.opcode))] at hshort
      obtain ⟨hfields, hnone⟩ := stored_inline hshort s.down.extStore.length
      exact ⟨by rw [hstore, hnone, List.append_nil], hfields⟩
    · rw [← List.length_map (f := byteOnLine (lineOfCommand row.opcode))] at hlong
      obtain ⟨hoffset, hall⟩ := stored_extended hlong s.down.extStore.length
      exact ⟨hoffset, by rw [hstore, hall]⟩

/-- Settles O53: the block does not touch the stage after it, and a command byte appends. -/
theorem downstreamStoresAreAppendOnly : Obligations.DownstreamStoresAreAppendOnly := by
  intro s t h
  rcases step_cases h with hkeep | ⟨b, rfl⟩
  · rw [hkeep.down]
    exact StoresGrow.refl s.down
  · exact acceptCommandByte_grows b _ s.down

/-- Settles O54: the word decodes to the undefined command byte, which meets the stage after the block like any other. -/
theorem undefinedCommandByteStillGoesOn : Obligations.UndefinedCommandByteStillGoesOn := by
  intro s b rest hclass hissue
  have hresult : classOf b = .classified .undefined none none := by
    rw [classOf, registerOfCommand, pipeOfCommand, hclass]
    rfl
  refine ⟨acceptCommandByte b (waitingTransactions s) s.down, ?_, fun t more c bytes hwait hbytes hlen hbyte => ?_⟩
  · rw [step_of_issued hissue, runWord, decodeCommand_undefined hclass, ← hresult]
    rfl
  · obtain ⟨f, data, hassemble, -⟩ := assemble_cons hbytes hlen s.down.extStore.length
    rw [hwait, acceptCommandByte_of_match s.down hbytes hlen hbyte, acceptTransaction_of_assemble hassemble]
    simp

/-- Settles O55: whatever is appended leaves the pair, and the bytes of its payload, where they are. -/
theorem decodedPairNeverChanges : Obligations.DecodedPairNeverChanges := by
  intro s t i x h hx hin
  rcases step_cases h with hkeep | ⟨b, rfl⟩
  · rw [hkeep.down]
    exact hx
  · exact (acceptCommandByte_appends b _ s.down).decodedAt hx hin

/-- Settles O56: the two lists exclude each other and the register opcodes, and only those have an address. -/
theorem payloadPresenceFollowsTheTwoLists : Obligations.PayloadPresenceFollowsTheTwoLists := by
  refine ⟨fun op hop r => ?_, fun op hop r => ?_, ?_, fun op r => cmdCarriesData_of_address⟩
  · have hnothing := carriesNothing_of_mem hop
    exact ⟨cmdCarriesData_of_nothing hnothing r, if_pos hnothing,
      cmdHasAddress_of_not_register (not_isRegister (.inl hnothing)) r⟩
  · obtain ⟨hpayload, hsome⟩ := carriesPayload_of_mem hop
    exact ⟨cmdCarriesData_of_payload hpayload hsome r, by simp [cmdHasPayload, hpayload, hsome],
      cmdHasAddress_of_not_register (not_isRegister (.inr hpayload)) r⟩
  · obtain ⟨hlow, hhigh⟩ := firstAddressRegister_bounds
    exact ⟨Config.firstAddressRegister, hlow, hhigh, fun op r => by rw [cmdHasAddress_iff, cmdIsRegister_iff]⟩

end
